-- ==== Sys2Proof/Word.lean ====
section
/-! DEFINITION. The word types of the block: bytes, 32-bit words, 64-bit event words, and a field of a word as a number. -/

namespace Sys2Proof

/-- One byte of a buffer or of the surface (20_memory.md R46). -/
abbrev Byte := BitVec 8

/-- A 32-bit quantity: the length register, the counters, a selector, and every SW_WIDTH-bit vector (SW_WIDTH is at most 32). -/
abbrev Word32 := BitVec 32

/-- An event word (30_encoding.md R72). -/
abbrev EventWord := BitVec 64

end Sys2Proof
end

