-- ==== Sys2Proof/Config.lean ====
section
/-! DEFINITION. What the source fixes by name (00_scope.md R7 to R11), the parameters it leaves OPEN (R12 to R16), the values
this model launches them with, and the free values of 93_implementation_defined.md I7 and I9. -/

namespace Sys2Proof
namespace Config

/-! ### Values the source settles (each one named constant, 93_implementation_defined.md I14; log 17) -/

/-- `MAX_IMAGE_BYTES` (R7): the size of InBuffer, OutBuffer and LocalImageBuffer, and the clamp bound. -/
def maxImageBytes : Nat := 65536
/-- `SURF_W` (R8). -/
def surfW : Nat := 320
/-- `SURF_H` (R8). -/
def surfH : Nat := 240
/-- `SURF_PIXELS` (R8). -/
def surfPixels : Nat := 76800
/-- `BRIGHT_STEP` (R9). -/
def brightStep : Nat := 50
/-- `TICKS_PER_SECOND` (R10). -/
def ticksPerSecond : Nat := 10
/-- `LEN_BITS` (R11). -/
def lenBits : Nat := 32
/-- `DIGITS` (R11). -/
def digits : Nat := 6
/-- The red and green factor of `gray_to_332` (42_compositor.md R115). -/
def redGreenFactor : Nat := 7
/-- The blue factor of `gray_to_332` (42_compositor.md R115). -/
def blueFactor : Nat := 3
/-- The divisor of `gray_to_332` (42_compositor.md R115). -/
def grayDivisor : Nat := 255

/-! ### Parameters the source leaves OPEN -/

/-- The fixed addresses of R16 and the OPEN offsets and stride of 10_state.md R41. No rule reads one (R16, R45). -/
structure Addresses where
  sw : Nat
  irqMask : Nat
  edgeCap : Nat
  timer : Nat
  disp : Nat
  len : Nat
  inBuf : Nat
  outBuf : Nat
  fb : Nat
  timerControlOffset : Nat
  timerPeriodOffset : Nat
  dispStride : Nat
  deriving DecidableEq, Repr

/-- The OPEN parameters, "each an argument of the model" (00_scope.md section 4). State carries one value of this type, which
no step writes (DESIGN CHOICE, safe, log 6). -/
structure Params where
  /-- `SW_WIDTH` (R12). -/
  swWidth : Nat
  /-- `SW_IRQMASK` (R13), which the switch port's interrupt mask register holds for the whole run (10_state.md R41). -/
  swIrqMask : Word32
  /-- `TIMER_IRQ_EN` (R13), which the timer control register holds for the whole run (10_state.md R41). -/
  timerIrqEn : Bool
  /-- `TIMER_PERIOD` (R14). -/
  timerPeriod : Nat
  /-- `DEBOUNCE_DELAY` (R14); no rule of the untimed model depends on it (log 18). -/
  debounceDelay : Nat
  /-- `SEL_DISPLAY_MAX` (R15). -/
  selDisplayMax : Nat
  /-- The addresses of R16. -/
  addr : Addresses
  deriving DecidableEq, Repr

/-- The ranges the spec states for the parameters: R12, R13, R15 and, for `ADDR_LEN`, 20_memory.md R50. -/
abbrev Params.Valid (p : Params) : Prop :=
  2 ≤ p.swWidth ∧ p.swWidth ≤ 32 ∧ p.swIrqMask.toNat < 2 ^ p.swWidth ∧ p.selDisplayMax ≤ 99 ∧ p.addr.len % 4 = 0

/-- The parameter values State.reset carries: those 95_test_vectors.md assumes "unless a vector says otherwise", and 0 where
that file gives none (DESIGN CHOICE, unsafe, log 7). -/
def launchParams : Params where
  swWidth := 4
  swIrqMask := 0b1111#32
  timerIrqEn := true
  timerPeriod := 0
  debounceDelay := 0
  selDisplayMax := 3
  addr := ⟨0, 0, 0, 0, 0, 0, 0, 0, 0, 0, 0, 0⟩

/-! ### Free values: constants without a body, applied to the counter State.draws -/

/-- The draw for `S.edgecap` at a RESET event (70_reset_and_hazards.md R170); its low SW_WIDTH bits are used (log 10). -/
opaque drawEdgecap : Nat → Word32
/-- The draw for `S.to` at a RESET event (R170; log 10). -/
opaque drawTimerTo : Nat → Bool
/-- The draw for digit bank `i` at a RESET event (R170), as the symbol's number of 30_encoding.md R70 (log 10). -/
opaque drawDigit : Nat → Fin 6 → Fin 11
/-- The byte P_READ_OUT returns where 40_handshake.md R97 says "any byte (a draw)" (log 11). -/
opaque drawOutByte : Nat → Byte

end Config
end Sys2Proof
end

