-- ==== Sys2Proof/Syntax.lean ====
section
/-! DEFINITION. The instructions: one constructor per row of spec/opcode_table.json, what is put before the decoder, and the
agent that issues each event. -/

namespace Sys2Proof

/-- The block's operations, one constructor per row of spec/opcode_table.json, in the table's order. The first fourteen are
the events of 30_encoding.md R74. The last five are the table's selector rows (R84), here the direct invocation of one
transform function on one operand byte (DESIGN CHOICE, safe, log 4). -/
inductive Instr where
  /-- RESET, 70_reset_and_hazards.md R170. -/
  | reset
  /-- BOOT, 40_handshake.md R90. -/
  | boot
  /-- DISPATCH with cause 0, the timer source, 43_dispatcher.md R122. -/
  | dispatchTimer
  /-- DISPATCH with cause 1, the switch-edge source, 43_dispatcher.md R123. -/
  | dispatchSwitch
  /-- ACK, 43_dispatcher.md R125. -/
  | ack
  /-- RUN_TRANSFER, 40_handshake.md R85. -/
  | runTransfer (render : Bool)
  /-- APPLY, 41_transform.md R100. -/
  | apply (len : BitVec 17) (sel : Word32)
  /-- RENDER, 42_compositor.md R110. -/
  | render (len : BitVec 17)
  /-- SW_SET, 43_dispatcher.md R140. -/
  | swSet (value : Word32)
  /-- TIMER_EXPIRE, 43_dispatcher.md R141. -/
  | timerExpire
  /-- P_WRITE_IN, 40_handshake.md R94. -/
  | pWriteIn (off : BitVec 16) (byte : Byte)
  /-- P_WRITE_LEN, 40_handshake.md R95. -/
  | pWriteLen (value : Word32)
  /-- P_READ_LEN, 40_handshake.md R96. -/
  | pReadLen
  /-- P_READ_OUT, 40_handshake.md R97. -/
  | pReadOut (off : BitVec 16)
  /-- T_IDENT on the byte `v`, 41_transform.md R101. -/
  | tIdent (v : Byte)
  /-- T_INVERT on the byte `v`, 41_transform.md R102. -/
  | tInvert (v : Byte)
  /-- T_BRIGHTEN on the byte `v`, 41_transform.md R103. -/
  | tBrighten (v : Byte)
  /-- T_DARKEN on the byte `v`, 41_transform.md R104. -/
  | tDarken (v : Byte)
  /-- T_UNSUPPORTED (a selector of 4 or more) on the byte `v`, 41_transform.md R105. -/
  | tUnsupported (sel : Word32) (v : Byte)
  deriving DecidableEq, Repr

/-- What stands before the decoder: a 64-bit event word (30_encoding.md R72), or a 32-bit selector value (R84) with the
operand byte its transform function is applied to (log 4). -/
inductive Stimulus where
  | event (w : EventWord)
  | lane (sel : Word32) (v : Byte)
  deriving DecidableEq, Repr

/-- The transforms a selector names (30_encoding.md R66). -/
inductive Transform where
  | ident
  | invert
  | brighten
  | darken
  | unsupported
  deriving DecidableEq, Repr

/-- Who issues an event (00_scope.md R6; 30_encoding.md R74, column "agent"). -/
inductive Agent where
  | block
  | environment
  | producer
  deriving DecidableEq, Repr

/-- The agent of each row, as spec/opcode_table.json gives it. -/
def Instr.agent : Instr → Agent
  | .reset | .boot | .dispatchTimer | .dispatchSwitch | .ack | .runTransfer _ | .apply _ _ | .render _ => .block
  | .swSet _ | .timerExpire => .environment
  | .pWriteIn _ _ | .pWriteLen _ | .pReadLen | .pReadOut _ => .producer
  | .tIdent _ | .tInvert _ | .tBrighten _ | .tDarken _ | .tUnsupported _ _ => .block

end Sys2Proof
end

