-- ==== Sys2Proof/Machine/State.lean ====
section
/-! DEFINITION. The state record S of 10_state.md as plain data, the reasons a step stops, and the state after reset. -/

namespace Sys2Proof.Machine

/-- A byte region: the offsets that hold a value, with that value. An offset not listed holds `undef`, so "never written
since reset or launch" (00_scope.md R17) is what an unlisted address reads as (log 12). -/
abbrev Memory := List Host.Cell

/-- The canonical form of a region: offsets strictly rising. (No entry can equal `undef`, which is no byte.) -/
abbrev Memory.wf (m : Memory) : Prop := m.Pairwise (fun c d => c.1 < d.1)

/-- Every offset listed lies inside a region of `size` bytes (20_memory.md R46). -/
abbrev Memory.within (size : Nat) (m : Memory) : Prop := ∀ c ∈ m, c.1 < size

/-- `S.phase`, the control state (10_state.md R20). -/
inductive Phase where
  | boot
  | idle
  | ack
  | fault
  deriving DecidableEq, Repr

/-- A digit symbol (30_encoding.md R70): `D0` to `D9`, or the overflow sentinel. -/
inductive Digit where
  | dec (d : Fin 10)
  | ovf
  deriving DecidableEq, Repr

/-- An output token (10_state.md R40). -/
inductive Token where
  /-- SIZING_ERROR, the report of 42_compositor.md R117. -/
  | sizingError
  /-- TOD_TICK, the pulse of 43_dispatcher.md R130. -/
  | todTick
  deriving DecidableEq, Repr

/-- The regions an F_UNDEF_READ names (60_exceptions.md R147). -/
inductive RegionName where
  | inBuf
  | localBuf
  deriving DecidableEq, Repr

/-- A fault reason with the information recorded (60_exceptions.md R147). -/
inductive FaultRecord where
  /-- F_GEOMETRY, code 1: the side of an image that does not fit the surface. -/
  | geometry (side : Nat)
  /-- F_UNDEF_READ, code 2: the region and the least offset whose byte is undef. -/
  | undefRead (region : RegionName) (offset : Nat)
  deriving DecidableEq, Repr

/-- The value an event hands back to its caller (the "result" of 40_handshake.md R96, R97, and of a transform function,
41_transform.md section 2). -/
inductive Returned where
  | none
  | len (v : Word32)
  | outByte (v : Byte)
  | laneByte (v : Byte)
  deriving DecidableEq, Repr

/-- Why the model stops. The block's own faults are not here: the model takes them, as next states (60_exceptions.md R150;
log 3). -/
inductive Fault where
  /-- A block event whose enabling condition does not hold has no step, which is a wait (60_exceptions.md R149). Raised by the
  meanings of BOOT, DISPATCH_TIMER, DISPATCH_SWITCH, ACK, RUN_TRANSFER, APPLY and RENDER. Safe (log 2). -/
  | blockNotEnabled (event : String)
  /-- A producer event that breaks the ownership rule has no step: the producer is assumed never to make it (R149, R161).
  Raised by the meanings of P_WRITE_IN and P_WRITE_LEN. Safe (log 2). -/
  | producerNotEnabled (event : String)
  deriving DecidableEq, Repr

/-- Why the model gives an instruction no meaning. A word the SPEC refuses (60_exceptions.md R152) is no such refusal: it is
a next state with the refusal mark set (log 3). -/
inductive Refusal where
  /-- An instruction with no meaning yet. Raised by no arm of exec: every instruction has its meaning. Safe. -/
  | notModelled (mnemonic : String)
  deriving DecidableEq, Repr

/-- The state record `S` of 10_state.md. The SW_WIDTH-bit vectors are held in 32 bits; the bits at and above SW_WIDTH are 0
in every reachable state (log 14). -/
structure State where
  /-- The parameters, fixed for the run, among them what the interrupt mask and timer control registers hold (R41; log 6). -/
  cfg : Config.Params
  /-- `S.phase` (R20). -/
  phase : Phase
  /-- `S.gie` (R21). -/
  gie : Bool
  /-- `S.snap` (R26). -/
  snap : Word32
  /-- `S.prev_confirm` (R27). -/
  prevConfirm : Bool
  /-- `S.timeout_count` (R28). -/
  timeoutCount : Word32
  /-- `S.counter` (R29). -/
  counter : Word32
  /-- `S.edgecap` (R23). -/
  edgecap : Word32
  /-- `S.to` (R24). -/
  timerTo : Bool
  /-- The timer period register (R41, width OPEN; log 15). -/
  timerPeriod : Nat
  /-- `S.sw` (R31). -/
  sw : Word32
  /-- `S.len` (R32). -/
  len : Word32
  /-- `S.in` (R33). -/
  inBuf : Memory
  /-- `S.out` (R34). -/
  outBuf : Memory
  /-- `S.local` (R35). -/
  localBuf : Memory
  /-- `S.fb` (R36). -/
  fb : Memory
  /-- `S.disp` (R39). -/
  disp : Vector Digit 6
  /-- `S.fault` (R37). -/
  fault : Option FaultRecord
  /-- `S.refused` (R38). -/
  refused : Bool
  /-- `S.trace`, oldest token first (R40). -/
  trace : List Token
  /-- The model's own: what is left of the event trace being executed (R42), the next event first (log 1). -/
  events : List Stimulus
  /-- The model's own: the value last handed back to a caller (log 5). -/
  returned : Returned
  /-- The model's own: how many free values have been drawn (log 10). -/
  draws : Nat
  deriving DecidableEq, Repr

/-- The machine right after reset: RESET applied to the launch values (70_reset_and_hazards.md R170, R171). The spec gives
phase, gie, snap, prev_confirm, the counters, local, fb, fault, refused and trace. The launch values of sw, len, in and out
(log 8), the drawn edgecap, to and disp (log 9), the parameters (log 7) and the model's own fields (log 1, 5, 10) are this
model's DESIGN CHOICE, unsafe where a log entry says so. -/
def State.reset : State where
  cfg := Config.launchParams
  phase := .boot
  gie := false
  snap := 0
  prevConfirm := false
  timeoutCount := 0
  counter := 0
  edgecap := 0
  timerTo := false
  timerPeriod := Config.launchParams.timerPeriod
  sw := 0
  len := 0
  inBuf := []
  outBuf := []
  localBuf := []
  fb := []
  disp := Vector.replicate 6 (.dec 0)
  fault := none
  refused := false
  trace := []
  events := []
  returned := .none
  draws := 0

end Sys2Proof.Machine
end

