-- ==== Sys2Proof/Machine/Operands.lean ====
section
/-! DEFINITION. The values rules compute from their operands: the fields of a SwitchState, the clamped length, the byte
transforms, sizing, centering, colour and digits. -/

namespace Sys2Proof.Machine

/-! ### SwitchState (30_encoding.md R65, R69) -/

/-- `exit(s) = s[0]`. -/
def exitBit (s : Word32) : Bool := s.getLsbD 0

/-- `confirm(s) = s[1]`. -/
def confirmBit (s : Word32) : Bool := s.getLsbD 1

/-- `sel(s) = s div 4`, the selector, zero-extended to the 32 bits APPLY takes (R65, R84; 41_transform.md R108). -/
def switchSel (s : Word32) : Word32 := s >>> 2

/-- `ONES = 2^SW_WIDTH - 1` (R69). -/
def onesMask (swWidth : Nat) : Word32 := BitVec.ofNat 32 (2 ^ swWidth - 1)

/-! ### The length register (20_memory.md R48; 40_handshake.md R85 step 2, R86) -/

/-- Byte `k` of the length register, little-endian: bits `8k+7 : 8k` (R48). -/
def lenByte (len : Word32) (k : Fin 4) : Byte := BitVec.ofNat 8 (len.toNat / 2 ^ (8 * k.val))

/-- `min(S.len, 65536)`, an unsigned comparison (R86). -/
def clampLen (n0 : Word32) : Nat := min n0.toNat Config.maxImageBytes

/-! ### The transform functions (41_transform.md R101 to R105) -/

/-- T_IDENT: `f(v) = v` (R101). -/
def identByte (v : Byte) : Byte := v

/-- T_INVERT: `f(v) = ~v = 255 - v` (R102). -/
def invertByte (v : Byte) : Byte := ~~~v

/-- T_BRIGHTEN: `f(v) = min(255, v + 50)`, the sum without a width limit (R103). -/
def brightenByte (v : Byte) : Byte := BitVec.ofNat 8 (min 255 (v.toNat + Config.brightStep))

/-- T_DARKEN: `f(v) = max(0, v - 50)`, the difference as a signed integer (R104). -/
def darkenByte (v : Byte) : Byte := BitVec.ofNat 8 (max 0 ((v.toNat : Int) - (Config.brightStep : Int))).toNat

/-- T_UNSUPPORTED: `f(v) = v` (R105). -/
def unsupportedByte (v : Byte) : Byte := v

/-- The function of a transform (R100, R101 to R105). -/
def transformByte : Transform → Byte → Byte
  | .ident => identByte
  | .invert => invertByte
  | .brighten => brightenByte
  | .darken => darkenByte
  | .unsupported => unsupportedByte

/-! ### Sizing and centering (42_compositor.md R111 to R113) -/

/-- The probe of R111: the first number from `i` up whose square is not below `len`, within `fuel` steps. -/
def probeRoot (len : Nat) : Nat → Nat → Nat
  | 0, i => i
  | fuel + 1, i => if i * i < len then probeRoot len fuel (i + 1) else i

/-- `isqrt_exact(len)` (R111). `len` steps are always enough, since `len * len` is not below `len`. -/
def isqrtExact (len : Nat) : Option Nat :=
  let i := probeRoot len len 0
  if i * i = len then some i else none

/-- `sx` (R112), truncating division. -/
def centerX (side : Nat) : Nat := (Config.surfW - side) / 2

/-- `sy` (R112), truncating division. -/
def centerY (side : Nat) : Nat := (Config.surfH - side) / 2

/-- The inside test of R113. -/
def insideImage (side x y : Nat) : Bool :=
  decide (centerX side ≤ x) && decide (x < centerX side + side) && decide (centerY side ≤ y) && decide (y < centerY side + side)

/-- The offset in the source image of the inside pixel `(x, y)` (R113). -/
def sourceOffset (side x y : Nat) : Nat := (y - centerY side) * side + (x - centerX side)

/-- The offset of pixel `(x, y)` in the surface (20_memory.md R47). -/
def pixelOffset (x y : Nat) : Nat := y * Config.surfW + x

/-! ### Colour (30_encoding.md R67; 42_compositor.md R115, R116) -/

/-- `pack(r, g, b)`: the channel positions stand here only (R67, 93_implementation_defined.md G1; PRESUMED by the spec from
the common RGB332 layout, log 16). -/
def pack (r g b : Nat) : Byte := BitVec.ofNat 8 (r * 32 + g * 4 + b)

/-- `red(p) = p[7:5]` (R67). -/
def redOf (p : Byte) : Nat := p.toNat / 32

/-- `green(p) = p[4:2]` (R67). -/
def greenOf (p : Byte) : Nat := p.toNat / 4 % 8

/-- `blue(p) = p[1:0]` (R67). -/
def blueOf (p : Byte) : Nat := p.toNat % 4

/-- `gray_to_332(g)` (R115): each channel by a truncating integer division. -/
def grayTo332 (g : Byte) : Byte :=
  pack (g.toNat * Config.redGreenFactor / Config.grayDivisor) (g.toNat * Config.redGreenFactor / Config.grayDivisor)
    (g.toNat * Config.blueFactor / Config.grayDivisor)

/-- `BACKGROUND = gray_to_332(0)` (R116). -/
def background : Byte := grayTo332 0

/-! ### Digits (30_encoding.md R70; 43_dispatcher.md R132) -/

/-- `D(d)`, the symbol of a decimal digit `d` below 10. -/
def digitOf (d : Nat) : Digit := .dec (Fin.ofNat 10 d)

/-- The number of a symbol: 0 to 9, and 10 for OVF (R70). -/
def digitCode : Digit → Nat
  | .dec d => d.val
  | .ovf => 10

/-- The symbol of a number 0 to 10 (R70). -/
def digitOfCode (c : Fin 11) : Digit := if c.val < 10 then digitOf c.val else .ovf

/-- The tens symbol of a selector, or the sentinel above `SEL_DISPLAY_MAX` (R132). -/
def selTens (selDisplayMax k : Nat) : Digit := if k ≤ selDisplayMax then digitOf (k / 10) else .ovf

/-- The ones symbol of a selector, or the sentinel above `SEL_DISPLAY_MAX` (R132). -/
def selOnes (selDisplayMax k : Nat) : Digit := if k ≤ selDisplayMax then digitOf (k % 10) else .ovf

/-- Minutes of the seconds counter: `(counter div 60) mod 100` (R132). -/
def minutesOf (counter : Word32) : Nat := counter.toNat / 60 % 100

/-- Seconds of the seconds counter: `counter mod 60` (R132). -/
def secondsOf (counter : Word32) : Nat := counter.toNat % 60

/-- The six banks, bank 0 first: seconds ones and tens, minutes ones and tens, selector ones and tens (R132). -/
def digitBanks (selDisplayMax : Nat) (sel counter : Word32) : Vector Digit 6 :=
  #v[digitOf (secondsOf counter % 10), digitOf (secondsOf counter / 10), digitOf (minutesOf counter % 10),
    digitOf (minutesOf counter / 10), selOnes selDisplayMax sel.toNat, selTens selDisplayMax sel.toNat]

end Sys2Proof.Machine
end

