-- ==== Sys2Proof/Machine/Ops.lean ====
section
/-! DEFINITION. The named operations over the regions and the registers, taking a fault, and the outcome of an event. -/

namespace Sys2Proof.Machine

/-! ### Regions (20_memory.md R46, R51, R54) -/

/-- The byte at offset `x`, or nothing where it holds `undef`. -/
def Memory.read : Memory → Nat → Option Byte
  | [], _ => none
  | c :: m, x => if c.1 = x then some c.2 else Memory.read m x

/-- Write one byte, keeping the offsets rising. -/
def Memory.write : Memory → Nat → Byte → Memory
  | [], x, v => [(x, v)]
  | c :: m, x, v =>
    if x < c.1 then (x, v) :: c :: m
    else if c.1 = x then (x, v) :: m
    else c :: Memory.write m x v

/-- The cells that hold the bytes `bs` at the offsets from `x` up. -/
def cellsFrom (x : Nat) : List Byte → Memory
  | [] => []
  | b :: bs => (x, b) :: cellsFrom (x + 1) bs

/-- Write `bs` at the offsets `0 .. bs.length-1`; every other offset is unchanged. -/
def Memory.writePrefix (m : Memory) (bs : List Byte) : Memory :=
  cellsFrom 0 bs ++ m.filter (fun c => decide (bs.length ≤ c.1))

/-- The `k` bytes from offset `x` up, read along a region whose first cell is not below `x`; or the least of those offsets
that holds `undef`. -/
def takeCells (x : Nat) : Nat → Memory → Except Nat (List Byte)
  | 0, _ => .ok []
  | _ + 1, [] => .error x
  | k + 1, c :: m =>
    if c.1 = x then
      match takeCells (x + 1) k m with
      | .ok bs => .ok (c.2 :: bs)
      | .error i => .error i
    else .error x

/-- The bytes at the offsets `0 .. n-1`, or the least offset among them that holds `undef` (the check of 20_memory.md R54). -/
def Memory.readPrefix (m : Memory) (n : Nat) : Except Nat (List Byte) := takeCells 0 n m

/-! ### The block's reads and writes of its regions -/

/-- Read `S.in[0..n)`; an undef byte is F_UNDEF_READ in region IN (20_memory.md R54). -/
def readIn (n : Nat) (s : State) : Except FaultRecord (List Byte) :=
  match s.inBuf.readPrefix n with
  | .ok bs => .ok bs
  | .error i => .error (.undefRead .inBuf i)

/-- Read `S.local[0..n)`; an undef byte is F_UNDEF_READ in region LOCAL (20_memory.md R54). -/
def readLocal (n : Nat) (s : State) : Except FaultRecord (List Byte) :=
  match s.localBuf.readPrefix n with
  | .ok bs => .ok bs
  | .error i => .error (.undefRead .localBuf i)

/-- Write `S.local` from offset 0. -/
def writeLocal (bs : List Byte) (s : State) : State := { s with localBuf := s.localBuf.writePrefix bs }

/-- Write `S.out` from offset 0. -/
def writeOut (bs : List Byte) (s : State) : State := { s with outBuf := s.outBuf.writePrefix bs }

/-- Write `S.fb` from offset 0. -/
def writeSurface (bs : List Byte) (s : State) : State := { s with fb := s.fb.writePrefix bs }

/-- The acknowledgment of a transfer: `S.len <- 0` (40_handshake.md R85 step 7). -/
def acknowledgeLength (s : State) : State := { s with len := 0 }

/-! ### Registers with side effects (20_memory.md R52) -/

/-- A write of `w` to the edge-capture register clears the bits where `w` has a 1 (10_state.md R23). -/
def writeEdgeCapture (w : Word32) (s : State) : State := { s with edgecap := s.edgecap &&& ~~~w }

/-- A write to the timer status clears `S.to` (20_memory.md R52). -/
def writeTimerStatus (s : State) : State := { s with timerTo := false }

/-- A write to the timer period register (10_state.md R41). -/
def writeTimerPeriod (p : Nat) (s : State) : State := { s with timerPeriod := p }

/-- `emit(token)`: append to the output trace (00_scope.md R17). -/
def emit (t : Token) (s : State) : State := { s with trace := s.trace ++ [t] }

/-- Hand a value back to the event's caller (log 5). -/
def answer (r : Returned) (s : State) : State := { s with returned := r }

/-! ### Interrupt entry and return, faults, refusal -/

/-- Interrupt entry saves exactly the switch snapshot (60_exceptions.md R155; 43_dispatcher.md step 1). -/
def takeSnapshot (s : State) : State := { s with snap := s.sw }

/-- Return to waiting: nothing is restored (60_exceptions.md R156). -/
def returnToIdle (s : State) : State := { s with phase := .idle }

/-- What `S.fault` holds once the fault `f` is raised: it is set once, and the run's first fault stays recorded for the rest of
the run (10_state.md R37; log 13). -/
def recordFault (f : FaultRecord) (held : Option FaultRecord) : Option FaultRecord := held.or (some f)

/-- `raise Fault(reason, info)`: the record and the phase, on the state before the event, and no other write (60_exceptions.md
R150). -/
def raiseFault (f : FaultRecord) (s : State) : State := { s with fault := recordFault f s.fault, phase := .fault }

/-- `refuse(RESERVED_ENCODING)`: the refusal mark and nothing else (60_exceptions.md R152). -/
def refuseWord (s : State) : State := { s with refused := true }

/-- The outcomes of one event. -/
abbrev Result := Host.Outcome State Fault Refusal

/-- An event that may fault, run on `s`: its next state, or `s` with the fault taken and every other write discarded
(60_exceptions.md R150; log 3). -/
def commit (s : State) : Except FaultRecord State → Result
  | .ok t => .next t
  | .error f => .next (raiseFault f s)

/-- Do `f` after a part of an event that has not faulted (60_exceptions.md R148: the first fault ends the event). -/
def thenDo : Except FaultRecord State → (State → Except FaultRecord State) → Except FaultRecord State
  | .ok s, f => f s
  | .error e, _ => .error e

/-- A block event: its effect where its enabling condition holds, no step elsewhere (60_exceptions.md R149; log 2). -/
def blockEvent (enabled : Bool) (event : String) (effect : Result) : Result :=
  if enabled then effect else .fault (.blockNotEnabled event)

/-- A producer event: its effect where the producer owns what it writes, no step elsewhere (R149, R161; log 2). -/
def producerEvent (enabled : Bool) (event : String) (effect : Result) : Result :=
  if enabled then effect else .fault (.producerNotEnabled event)

end Sys2Proof.Machine
end

