-- ==== Sys2Proof/Machine/Compositor.lean ====
section
/-! DEFINITION. The Framebuffer Compositor: RENDER (42_compositor.md R110). -/

namespace Sys2Proof.Machine

/-- The byte step 4 of R110 writes to pixel `(x, y)`, from the source image `img`. For an inside pixel the source offset is
below the image's length, so the 0 is never used. -/
def pixelByte (side : Nat) (img : Array Byte) (x y : Nat) : Byte :=
  if insideImage side x y then grayTo332 (img.getD (sourceOffset side x y) 0) else background

/-- Every pixel of the surface, in the order of its offset `y*320 + x` (R110 steps 4 and 5; 20_memory.md R47). -/
def frameBytes (side : Nat) (img : Array Byte) : List Byte :=
  (List.range Config.surfPixels).map (fun p => pixelByte side img (p % Config.surfW) (p / Config.surfW))

/-- The procedure `compose(S, len)` of R110: sizing, geometry, the undef check, then the whole frame. -/
def compose (len : Nat) (s : State) : Except FaultRecord State :=
  match isqrtExact len with
  | none => .ok (emit .sizingError s)
  | some side =>
    if Config.surfH < side then .error (.geometry side)
    else
      match readLocal (side * side) s with
      | .ok bs => .ok (writeSurface (frameBytes side bs.toArray) s)
      | .error f => .error f

/-- RENDER (R110), enabled in IDLE. -/
def execRender (len : BitVec 17) (s : State) : Result :=
  blockEvent (decide (s.phase = .idle)) "RENDER" (commit s (compose len.toNat s))

end Sys2Proof.Machine
end

