-- ==== Sys2Proof/Machine/Flags.lean ====
section
/-! DEFINITION. The conditions computed from the flags: the pending interrupts, the confirm edge, the tenth tick. The block
has no arithmetic flags (10_state.md R30). -/

namespace Sys2Proof.Machine

/-- `irq_timer(S)` (10_state.md R25): recomputed, not stored. -/
def irqTimer (s : State) : Bool := s.timerTo && s.cfg.timerIrqEn

/-- `irq_switch(S)` (10_state.md R25): recomputed, not stored. -/
def irqSwitch (s : State) : Bool := decide (s.edgecap &&& s.cfg.swIrqMask ≠ 0)

/-- The edge rule of 43_dispatcher.md R127: the confirm bit differs from the retained one, in either direction. -/
def confirmEdge (confirm prevConfirm : Bool) : Bool := confirm ^^ prevConfirm

/-- "every 10th increment": tested on the count after the increment (43_dispatcher.md R129). -/
def tenthTick (timeoutCount : Word32) : Bool := decide (timeoutCount.toNat % Config.ticksPerSecond = 0)

/-- A dispatch may begin: `S.phase = IDLE` and `S.gie = 1` (43_dispatcher.md R122, R123, R138). -/
def dispatchOpen (s : State) : Bool := decide (s.phase = .idle) && s.gie

/-- The producer owns InBuffer, OutBuffer and the length register (20_memory.md R60). -/
def producerOwns (s : State) : Bool := decide (s.len = 0)

end Sys2Proof.Machine
end

