-- ==== Sys2Proof/WellFormed.lean ====
section
/-! DEFINITION. The field constraints of 30_encoding.md R76 to R78 and the order of the selector rows (R84): which
instructions have an encoding. -/

namespace Sys2Proof

/-- `i` has an encoding on a block with `swWidth` switch bits. R76: an SW_SET value fits the switch port. R78: a length is at
most 65536. R84: T_UNSUPPORTED is tried last, so it is never a selector below 4. -/
def Instr.wf (swWidth : Nat) : Instr → Bool
  | .reset => true
  | .boot => true
  | .dispatchTimer => true
  | .dispatchSwitch => true
  | .ack => true
  | .runTransfer _ => true
  | .apply len _ => decide (len.toNat ≤ Config.maxImageBytes)
  | .render len => decide (len.toNat ≤ Config.maxImageBytes)
  | .swSet value => decide (value.toNat < 2 ^ swWidth)
  | .timerExpire => true
  | .pWriteIn _ _ => true
  | .pWriteLen _ => true
  | .pReadLen => true
  | .pReadOut _ => true
  | .tIdent _ => true
  | .tInvert _ => true
  | .tBrighten _ => true
  | .tDarken _ => true
  | .tUnsupported sel _ => decide (4 ≤ sel.toNat)

end Sys2Proof
end

