-- ==== Sys2Proof/Decode.lean ====
section
/-! DEFINITION. The decoder of 30_encoding.md R72 to R84, total and rejecting by name, and after it the encoder, written from
the same tables. -/

namespace Sys2Proof

/-- The three conditions of 30_encoding.md R79 under which a word is refused. All three are the one refusal reason
RESERVED_ENCODING of 60_exceptions.md R152. -/
inductive Reject where
  /-- The code is not in the table of R74. -/
  | unknownCode
  /-- A reserved bit of the format is 1 (R73). -/
  | reservedBit
  /-- A field constraint fails (R76, R77, R78). -/
  | fieldConstraint
  deriving DecidableEq, Repr

/-- The field `w[lo+n-1 : lo]` as an unsigned number (00_scope.md R17; 30_encoding.md R75). -/
def field (w : EventWord) (lo n : Nat) : Nat := w.toNat / 2 ^ lo % 2 ^ n

/-- The event code `w[63:56]` (R72). -/
def eventCode (w : EventWord) : Nat := field w 56 8

/-- Accept `i` when the reserved bits are 0 and the field constraint holds; the reserved bits are looked at first (R81). -/
def accept (reservedZero constraint : Bool) (i : Instr) : Except Reject Instr :=
  if reservedZero then (if constraint then .ok i else .error .fieldConstraint) else .error .reservedBit

/-- Format N: no field, `w[55:0]` reserved (R73). -/
def decodeN (w : EventWord) (i : Instr) : Except Reject Instr :=
  accept (decide (field w 0 56 = 0)) true i

/-- Format C: `cause = w[1:0]`; causes 2 and 3 fail the constraint of R77. -/
def decodeC (w : EventWord) : Except Reject Instr :=
  accept (decide (field w 2 54 = 0)) (decide (field w 0 2 < 2))
    (if field w 0 2 = 0 then .dispatchTimer else .dispatchSwitch)

/-- Format F: `render = w[0]`. -/
def decodeF (w : EventWord) : Except Reject Instr :=
  accept (decide (field w 1 55 = 0)) true (.runTransfer (decide (field w 0 1 = 1)))

/-- Format A: `len = w[16:0]`, `sel = w[55:24]`, `w[23:17]` reserved, len at most 65536 (R78). -/
def decodeA (w : EventWord) : Except Reject Instr :=
  accept (decide (field w 17 7 = 0)) (decide (field w 0 17 ≤ Config.maxImageBytes))
    (.apply (BitVec.ofNat 17 (field w 0 17)) (BitVec.ofNat 32 (field w 24 32)))

/-- Format L: `len = w[16:0]`, len at most 65536 (R78). -/
def decodeL (w : EventWord) : Except Reject Instr :=
  accept (decide (field w 17 39 = 0)) (decide (field w 0 17 ≤ Config.maxImageBytes))
    (.render (BitVec.ofNat 17 (field w 0 17)))

/-- Format V of SW_SET: `value = w[31:0]`, below `2^SW_WIDTH` (R76). -/
def decodeSwSet (swWidth : Nat) (w : EventWord) : Except Reject Instr :=
  accept (decide (field w 32 24 = 0)) (decide (field w 0 32 < 2 ^ swWidth)) (.swSet (BitVec.ofNat 32 (field w 0 32)))

/-- Format V of P_WRITE_LEN: `value = w[31:0]`, no constraint. -/
def decodeWriteLen (w : EventWord) : Except Reject Instr :=
  accept (decide (field w 32 24 = 0)) true (.pWriteLen (BitVec.ofNat 32 (field w 0 32)))

/-- Format WB: `off = w[47:32]`, `byte = w[7:0]`, `w[55:48]` and `w[31:8]` reserved. -/
def decodeWB (w : EventWord) : Except Reject Instr :=
  accept (decide (field w 48 8 = 0) && decide (field w 8 24 = 0)) true
    (.pWriteIn (BitVec.ofNat 16 (field w 32 16)) (BitVec.ofNat 8 (field w 0 8)))

/-- Format R: `off = w[47:32]`, `w[55:48]` and `w[31:0]` reserved. -/
def decodeR (w : EventWord) : Except Reject Instr :=
  accept (decide (field w 48 8 = 0) && decide (field w 0 32 = 0)) true (.pReadOut (BitVec.ofNat 16 (field w 32 16)))

/-- The decoder of event words (R81): the code byte selects the row of R74, every other code is refused. -/
def decodeEvent (swWidth : Nat) (w : EventWord) : Except Reject Instr :=
  match eventCode w with
  | 0x01 => decodeN w .reset
  | 0x02 => decodeN w .boot
  | 0x03 => decodeC w
  | 0x04 => decodeN w .ack
  | 0x05 => decodeF w
  | 0x06 => decodeA w
  | 0x07 => decodeL w
  | 0x10 => decodeSwSet swWidth w
  | 0x11 => decodeN w .timerExpire
  | 0x20 => decodeWB w
  | 0x21 => decodeWriteLen w
  | 0x22 => decodeN w .pReadLen
  | 0x23 => decodeR w
  | _ => .error .unknownCode

/-- The transform a selector names (30_encoding.md R66): compared with 0, 1, 2, 3 in turn, every other value UNSUPPORTED. -/
def selectTransform (sel : Word32) : Transform :=
  if sel = 0 then .ident
  else if sel = 1 then .invert
  else if sel = 2 then .brighten
  else if sel = 3 then .darken
  else .unsupported

/-- The selector rows of the opcode table, tried in table order (30_encoding.md R84); total. -/
def decodeLane (sel : Word32) (v : Byte) : Instr :=
  match selectTransform sel with
  | .ident => .tIdent v
  | .invert => .tInvert v
  | .brighten => .tBrighten v
  | .darken => .tDarken v
  | .unsupported => .tUnsupported sel v

/-- The decoder: total, an instruction or a refusal by name (R81). -/
def decode (swWidth : Nat) : Stimulus → Except Reject Instr
  | .event w => decodeEvent swWidth w
  | .lane sel v => .ok (decodeLane sel v)

/-! ### The encoder -/

/-- The word `{code, fields}` of 30_encoding.md R82, the fields given as the number `w[55:0]`. -/
def eventWord (code body : Nat) : EventWord := BitVec.ofNat 64 (code * 2 ^ 56 + body)

/-- The code and fields of each instruction by R73 and R74; a selector row is its selector value and operand byte (R84). -/
def encode : Instr → Stimulus
  | .reset => .event (eventWord 0x01 0)
  | .boot => .event (eventWord 0x02 0)
  | .dispatchTimer => .event (eventWord 0x03 0)
  | .dispatchSwitch => .event (eventWord 0x03 1)
  | .ack => .event (eventWord 0x04 0)
  | .runTransfer render => .event (eventWord 0x05 (if render then 1 else 0))
  | .apply len sel => .event (eventWord 0x06 (sel.toNat * 2 ^ 24 + len.toNat))
  | .render len => .event (eventWord 0x07 len.toNat)
  | .swSet value => .event (eventWord 0x10 value.toNat)
  | .timerExpire => .event (eventWord 0x11 0)
  | .pWriteIn off byte => .event (eventWord 0x20 (off.toNat * 2 ^ 32 + byte.toNat))
  | .pWriteLen value => .event (eventWord 0x21 value.toNat)
  | .pReadLen => .event (eventWord 0x22 0)
  | .pReadOut off => .event (eventWord 0x23 (off.toNat * 2 ^ 32))
  | .tIdent v => .lane 0 v
  | .tInvert v => .lane 1 v
  | .tBrighten v => .lane 2 v
  | .tDarken v => .lane 3 v
  | .tUnsupported sel v => .lane sel v

/-! ### Words numbered as spec/opcode_table.json numbers them -/

/-- The stimulus of a table row's bits `w`: a row of more than 40 bits is an event word; a selector row is 32 bits, above
which stands its operand byte (log 4, log 24). -/
def tableStimulus (nbits w : Nat) : Stimulus :=
  if nbits ≤ 40 then .lane (BitVec.ofNat 32 w) (BitVec.ofNat 8 (w / 2 ^ 32)) else .event (BitVec.ofNat 64 w)

/-- What the decoder reads from a table row's bits, with the SW_WIDTH of State.reset (log 24). -/
def decodeTableWord (nbits w : Nat) : Option Instr :=
  match decode Config.launchParams.swWidth (tableStimulus nbits w) with
  | .ok i => some i
  | .error _ => none

end Sys2Proof
end

