-- ==== Sys2Proof/Machine/Transform.lean ====
section
/-! DEFINITION. The Transform Engine: APPLY (41_transform.md R100) and the five selector rows (R101 to R105). -/

namespace Sys2Proof.Machine

/-- The procedure `transform(S, len, sel)` of R100: check every byte, then map the selected function over them in place. -/
def transform (len : Nat) (sel : Word32) (s : State) : Except FaultRecord State :=
  match readLocal len s with
  | .ok bs => .ok (writeLocal (bs.map (transformByte (selectTransform sel))) s)
  | .error f => .error f

/-- APPLY (R100), enabled in IDLE. -/
def execApply (len : BitVec 17) (sel : Word32) (s : State) : Result :=
  blockEvent (decide (s.phase = .idle)) "APPLY" (commit s (transform len.toNat sel s))

/-- T_IDENT on one operand byte (R101): no state of the block is read or written, the result is handed back (log 4). -/
def execTIdent (v : Byte) (s : State) : Result := .next (answer (.laneByte (identByte v)) s)

/-- T_INVERT on one operand byte (R102; log 4). -/
def execTInvert (v : Byte) (s : State) : Result := .next (answer (.laneByte (invertByte v)) s)

/-- T_BRIGHTEN on one operand byte (R103; log 4). -/
def execTBrighten (v : Byte) (s : State) : Result := .next (answer (.laneByte (brightenByte v)) s)

/-- T_DARKEN on one operand byte (R104; log 4). -/
def execTDarken (v : Byte) (s : State) : Result := .next (answer (.laneByte (darkenByte v)) s)

/-- T_UNSUPPORTED on one operand byte (R105; log 4): the same function whatever the selector. -/
def execTUnsupported (_sel : Word32) (v : Byte) (s : State) : Result := .next (answer (.laneByte (unsupportedByte v)) s)

end Sys2Proof.Machine
end

