-- ==== Sys2Proof/Machine/Handshake.lean ====
section
/-! DEFINITION. The Transfer Handshake: RUN_TRANSFER (40_handshake.md R85) and BOOT (R90). -/

namespace Sys2Proof.Machine

/-- Step 5 of R85: `S.out[i] <- S.local[i]`. Inside a transfer every byte read was written just before (60_exceptions.md
R148), so its undef case is never taken (log 23). -/
def copyOut (n : Nat) (s : State) : Except FaultRecord State :=
  match readLocal n s with
  | .ok bs => .ok (writeOut bs s)
  | .error f => .error f

/-- The procedure `run_transfer(S, k, render)` of R85, its seven steps in order. -/
def runTransfer (k : Word32) (render : Bool) (s : State) : Except FaultRecord State :=
  if s.len = 0 then .ok s
  else
    let n := clampLen s.len
    match readIn n s with
    | .error f => .error f
    | .ok bs =>
      thenDo (thenDo (thenDo (transform n k (writeLocal bs s)) (copyOut n))
        (fun t => if render then compose n t else .ok t)) (fun t => .ok (acknowledgeLength t))

/-- RUN_TRANSFER invoked directly (R85): enabled in IDLE, its selector that of the live switches. -/
def execRunTransfer (render : Bool) (s : State) : Result :=
  blockEvent (decide (s.phase = .idle)) "RUN_TRANSFER" (commit s (runTransfer (switchSel s.sw) render s))

/-- The end of BOOT (R90): interrupts on, phase IDLE. -/
def finishBoot (s : State) : Except FaultRecord State := .ok (returnToIdle { s with gie := true })

/-- BOOT (R90), enabled in BOOT: snapshot, the one-shot transfer without rendering, then the interrupt enable. -/
def execBoot (s : State) : Result :=
  let s1 := takeSnapshot s
  blockEvent (decide (s.phase = .boot)) "BOOT"
    (commit s (thenDo (if s1.len = 0 then .ok s1 else runTransfer (switchSel s1.snap) false s1) finishBoot))

end Sys2Proof.Machine
end

