-- ==== Sys2Proof/Machine/Dispatcher.lean ====
section
/-! DEFINITION. The Interrupt Dispatcher: DISPATCH for the timer and the switch edge, and ACK (43_dispatcher.md R122 to R125). -/

namespace Sys2Proof.Machine

/-- The end of R129, on the incremented tick count: every 10th tick pulses the time of day and counts a second. -/
def countSecond (s : State) : State :=
  if tenthTick s.timeoutCount then { emit .todTick s with counter := s.counter + 1 } else s

/-- `timer_service(S)` (R129): clear the pending flag, reload the period register, count the tick. -/
def timerService (s : State) : State :=
  let s1 := writeTimerPeriod s.cfg.timerPeriod (writeTimerStatus s)
  countSecond { s1 with timeoutCount := s1.timeoutCount + 1 }

/-- Steps 1 and 2 of every dispatch: the snapshot, then the timer service when the timer's flag is pending, whatever the
cause (R122, R123, R134). -/
def enterDispatch (s : State) : State :=
  let s1 := takeSnapshot s
  if s1.timerTo then timerService s1 else s1

/-- `digit_update(S)` (R132), from the snapshot's selector and the seconds counter. -/
def digitUpdate (s : State) : State := { s with disp := digitBanks s.cfg.selDisplayMax (switchSel s.snap) s.counter }

/-- The fixed post-service delay: no state of the untimed model changes (R136; 70_reset_and_hazards.md R186; log 18). -/
def postServiceDelay (_delay : Nat) (s : State) : State := s

/-- DISPATCH for the timer source (R122): step 3 is skipped and the phase stays IDLE. -/
def execDispatchTimer (s : State) : Result :=
  blockEvent (dispatchOpen s && irqTimer s) "DISPATCH_TIMER" (.next (digitUpdate (enterDispatch s)))

/-- The dispatch has finished its service part: the phase is ACK (R123). -/
def awaitAck (s : State) : Except FaultRecord State := .ok { s with phase := .ack }

/-- Step 3b of R123, on the state after step 2: the edge rule R127, the retained bit R128, the transfer with rendering. -/
def serviceEdge (s : State) : Except FaultRecord State :=
  let c := confirmBit s.snap
  let edge := confirmEdge c s.prevConfirm
  let s1 := { s with prevConfirm := c }
  thenDo (if decide (s1.len ≠ 0) && edge then runTransfer (switchSel s1.snap) true s1 else .ok s1) awaitAck

/-- DISPATCH for the switch-edge source, its service part (R123), with the exit bail-out of R124 at step 3a. -/
def execDispatchSwitch (s : State) : Result :=
  let s1 := enterDispatch s
  blockEvent (dispatchOpen s && irqSwitch s) "DISPATCH_SWITCH"
    (commit s (if exitBit s1.snap then .ok s1 else serviceEdge s1))

/-- ACK (R125), enabled in ACK: write all-ones to the edge capture, the delay, the digits of the dispatch's snapshot. -/
def execAck (s : State) : Result :=
  blockEvent (decide (s.phase = .ack)) "ACK"
    (.next (returnToIdle (digitUpdate (postServiceDelay s.cfg.debounceDelay
      (writeEdgeCapture (onesMask s.cfg.swWidth) s)))))

end Sys2Proof.Machine
end

