-- ==== Sys2Proof/Machine/Environment.lean ====
section
/-! DEFINITION. The environment's events: SW_SET and TIMER_EXPIRE (43_dispatcher.md R140, R141). -/

namespace Sys2Proof.Machine

/-- SW_SET (R140), always enabled: every changed bit is captured, in either direction. -/
def execSwSet (value : Word32) (s : State) : Result :=
  .next { s with edgecap := s.edgecap ||| (s.sw ^^^ value), sw := value }

/-- TIMER_EXPIRE (R141), always enabled: expiries coalesce in the one flag (10_state.md R24). -/
def execTimerExpire (s : State) : Result := .next { s with timerTo := true }

end Sys2Proof.Machine
end

