-- ==== Sys2Proof/Machine/Producer.lean ====
section
/-! DEFINITION. The producer's events (40_handshake.md R94 to R97), enabled in every phase of the block. -/

namespace Sys2Proof.Machine

/-- P_WRITE_IN (R94): the producer writes one byte of InBuffer while it owns it. -/
def execPWriteIn (off : BitVec 16) (byte : Byte) (s : State) : Result :=
  producerEvent (producerOwns s) "P_WRITE_IN" (.next { s with inBuf := s.inBuf.write off.toNat byte })

/-- P_WRITE_LEN (R95): the producer writes the length register while it reads zero. -/
def execPWriteLen (value : Word32) (s : State) : Result :=
  producerEvent (producerOwns s) "P_WRITE_LEN" (.next { s with len := value })

/-- P_READ_LEN (R96): the whole length register is handed back; a read has no side effect (20_memory.md R52). -/
def execPReadLen (s : State) : Result := .next (answer (.len s.len) s)

/-- Any byte (R97): a fresh free value (log 11). -/
def answerAnyByte (s : State) : State := { answer (.outByte (Config.drawOutByte s.draws)) s with draws := s.draws + 1 }

/-- P_READ_OUT (R97): the byte of OutBuffer, or any byte while a length is pending or where the byte is undef. -/
def execPReadOut (off : BitVec 16) (s : State) : Result :=
  match producerOwns s, s.outBuf.read off.toNat with
  | true, some b => .next (answer (.outByte b) s)
  | _, _ => .next (answerAnyByte s)

end Sys2Proof.Machine
end

