-- ==== Sys2Proof/Machine/Reset.lean ====
section
/-! DEFINITION. The RESET event (70_reset_and_hazards.md R170). -/

namespace Sys2Proof.Machine

/-- The edge-capture register a RESET event draws: any SW_WIDTH-bit value (10_state.md R23; free value, log 10). -/
def drawnEdgecap (s : State) : Word32 := Config.drawEdgecap s.draws &&& onesMask s.cfg.swWidth

/-- The digit banks a RESET event draws: any symbol in each (10_state.md R39; free value, log 10). -/
def drawnDisp (s : State) : Vector Digit 6 := Vector.ofFn (fun i => digitOfCode (Config.drawDigit s.draws i))

/-- RESET (R170), enabled in every phase. It leaves sw, len, in, out and the run's record (fault, refused, trace). The timer
period register is set to its reset value of 10_state.md R41 (log 15). -/
def execReset (s : State) : Result :=
  .next { s with
    phase := .boot
    gie := false
    snap := 0
    prevConfirm := false
    timeoutCount := 0
    counter := 0
    edgecap := drawnEdgecap s
    timerTo := Config.drawTimerTo s.draws
    timerPeriod := s.cfg.timerPeriod
    disp := drawnDisp s
    localBuf := []
    fb := []
    draws := s.draws + 1 }

end Sys2Proof.Machine
end

