-- ==== Sys2Proof/Machine/Dispatch.lean ====
section
/-! DEFINITION. What each instruction does: one arm per row of spec/opcode_table.json, in the table's order. -/

namespace Sys2Proof.Machine

def exec (i : Instr) (s : State) : Host.Outcome State Fault Refusal :=
  match i with
  | .reset => Sys2Proof.Machine.execReset s
  | .boot => Sys2Proof.Machine.execBoot s
  | .dispatchTimer => Sys2Proof.Machine.execDispatchTimer s
  | .dispatchSwitch => Sys2Proof.Machine.execDispatchSwitch s
  | .ack => Sys2Proof.Machine.execAck s
  | .runTransfer render => Sys2Proof.Machine.execRunTransfer render s
  | .apply len sel => Sys2Proof.Machine.execApply len sel s
  | .render len => Sys2Proof.Machine.execRender len s
  | .swSet value => Sys2Proof.Machine.execSwSet value s
  | .timerExpire => Sys2Proof.Machine.execTimerExpire s
  | .pWriteIn off byte => Sys2Proof.Machine.execPWriteIn off byte s
  | .pWriteLen value => Sys2Proof.Machine.execPWriteLen value s
  | .pReadLen => Sys2Proof.Machine.execPReadLen s
  | .pReadOut off => Sys2Proof.Machine.execPReadOut off s
  | .tIdent v => Sys2Proof.Machine.execTIdent v s
  | .tInvert v => Sys2Proof.Machine.execTInvert v s
  | .tBrighten v => Sys2Proof.Machine.execTBrighten v s
  | .tDarken v => Sys2Proof.Machine.execTDarken v s
  | .tUnsupported sel v => Sys2Proof.Machine.execTUnsupported sel v s

end Sys2Proof.Machine
end

