-- ==== Sys2Proof/Machine/Fetch.lean ====
section
/-! DEFINITION. Taking the next event of the trace being executed (10_state.md R42; log 1), and placing one. The block
fetches no instruction (20_memory.md R63). -/

namespace Sys2Proof.Machine

/-- The next event of the trace, and the state with it taken off; nothing when the trace is exhausted. -/
def nextEvent (s : State) : Option (Stimulus × State) :=
  match s.events with
  | [] => none
  | q :: rest => some (q, { s with events := rest })

/-- Put an event where `nextEvent` takes its next one. -/
def placeEvent (q : Stimulus) (s : State) : State := { s with events := q :: s.events }

end Sys2Proof.Machine
end

