-- ==== Sys2Proof/Machine/Step.lean ====
section
/-! DEFINITION. One step of the model: the next event of the trace is decoded and run (30_encoding.md R81). -/

namespace Sys2Proof.Machine

/-- One step. A word that decodes is run as one atomic event (00_scope.md R18); a word the decoder refuses sets the refusal
mark and nothing else (60_exceptions.md R152). With no event to take, the block waits and retains all state (R159, R163;
log 1). -/
def step (s : State) : Host.Outcome State Fault Refusal :=
  match nextEvent s with
  | none => .next s
  | some (q, t) =>
    match decode t.cfg.swWidth q with
    | .ok i => exec i t
    | .error _ => .next (refuseWord t)

/-- `s` with a table row's bits placed as the next event of the trace (log 1, log 24). -/
def State.withFetchWord (s : State) (nbits w : Nat) : State := placeEvent (tableStimulus nbits w) s

end Sys2Proof.Machine
end

