-- ==== Sys2Proof/Machine/Asm.lean ====
section
/-! DEFINITION. The textual syntax of 30_encoding.md R82 and the pseudo-events of R83, on a line given as its characters. -/

namespace Sys2Proof.Machine

/-- The pseudo-event `produce b0, ..., b(k-1)`, its bytes written from offset `i` up, then the length `k` (R83). -/
def produceFrom (i k : Nat) : List Byte → List Instr
  | [] => [.pWriteLen (BitVec.ofNat 32 k)]
  | b :: bs => .pWriteIn (BitVec.ofNat 16 i) b :: produceFrom (i + 1) k bs

/-- `produce` (R83), for 1 to 65536 bytes. -/
def produce (bs : List Byte) : Option (List Instr) :=
  if 1 ≤ bs.length ∧ bs.length ≤ Config.maxImageBytes then some (produceFrom 0 bs.length bs) else none

/-- `tick` (R83). -/
def tick : List Instr := [.timerExpire, .dispatchTimer]

/-- `service` (R83). -/
def service : List Instr := [.dispatchSwitch, .ack]

/-- A line without its comment, which `;` starts (R82). -/
def withoutComment (line : List Char) : List Char := line.takeWhile (fun c => c != ';')

/-- The words of a line: blanks and commas part them (log 22). The word being read is `acc`, last character first. -/
def wordsOf : List Char → List Char → List (List Char)
  | [], acc => if acc.isEmpty then [] else [acc.reverse]
  | c :: cs, acc =>
    if c = ' ' ∨ c = '\t' ∨ c = ',' then (if acc.isEmpty then wordsOf cs [] else acc.reverse :: wordsOf cs [])
    else wordsOf cs (c :: acc)

/-- The value of a digit, either case, if it is below the base. -/
def digitValue (base : Nat) (c : Char) : Option Nat :=
  let n := c.toNat
  let v :=
    if 48 ≤ n ∧ n ≤ 57 then n - 48
    else if 97 ≤ n ∧ n ≤ 102 then n - 87
    else if 65 ≤ n ∧ n ≤ 70 then n - 55
    else base
  if v < base then some v else none

/-- The number the digits continue from `acc`. -/
def digitsValue (base : Nat) : List Char → Nat → Option Nat
  | [], acc => some acc
  | c :: cs, acc =>
    match digitValue base c with
    | some v => digitsValue base cs (acc * base + v)
    | none => none

/-- A number: decimal, `0x` hexadecimal or `0b` binary (R82). -/
def number : List Char → Option Nat
  | '0' :: 'x' :: c :: cs => digitsValue 16 (c :: cs) 0
  | '0' :: 'b' :: c :: cs => digitsValue 2 (c :: cs) 0
  | c :: cs => digitsValue 10 (c :: cs) 0
  | [] => none

/-- A number that fits a field of `bits` bits (R73). -/
def operand (bits : Nat) (w : List Char) : Option Nat :=
  match number w with
  | some n => if n < 2 ^ bits then some n else none
  | none => none

/-- The bytes of a `produce` line. -/
def byteOperands : List (List Char) → Option (List Byte)
  | [] => some []
  | w :: ws =>
    match operand 8 w, byteOperands ws with
    | some n, some bs => some (BitVec.ofNat 8 n :: bs)
    | _, _ => none

/-- One event with one operand of `bits` bits. -/
def withOperand (bits : Nat) (mk : Nat → Instr) : List (List Char) → Option (List Instr)
  | [w] => (operand bits w).map (fun n => [mk n])
  | _ => none

/-- One event with two operands. -/
def withOperands (bits1 bits2 : Nat) (mk : Nat → Nat → Instr) : List (List Char) → Option (List Instr)
  | [w1, w2] =>
    match operand bits1 w1, operand bits2 w2 with
    | some n, some m => some [mk n m]
    | _, _ => none
  | _ => none

/-- Events without operands. -/
def withoutOperand (is : List Instr) : List (List Char) → Option (List Instr)
  | [] => some is
  | _ => none

/-- The operand word of `dispatch` and `run_transfer` (R82). -/
def withKeyword (w1 w2 : List Char) (i1 i2 : Instr) : List (List Char) → Option (List Instr)
  | [w] => if w = w1 then some [i1] else if w = w2 then some [i2] else none
  | _ => none

/-- The events of a line's words (R82, R83). -/
def eventsOfWords : List (List Char) → Option (List Instr)
  | [] => some []
  | op :: args =>
    if op = "reset".toList then withoutOperand [.reset] args
    else if op = "boot".toList then withoutOperand [.boot] args
    else if op = "dispatch".toList then withKeyword "timer".toList "switch".toList .dispatchTimer .dispatchSwitch args
    else if op = "ack".toList then withoutOperand [.ack] args
    else if op = "run_transfer".toList then
      withKeyword "render".toList "norender".toList (.runTransfer true) (.runTransfer false) args
    else if op = "apply".toList then
      withOperands 17 32 (fun n m => .apply (BitVec.ofNat 17 n) (BitVec.ofNat 32 m)) args
    else if op = "render".toList then withOperand 17 (fun n => .render (BitVec.ofNat 17 n)) args
    else if op = "sw".toList then withOperand 32 (fun n => .swSet (BitVec.ofNat 32 n)) args
    else if op = "timer".toList then withoutOperand [.timerExpire] args
    else if op = "pwrite_in".toList then
      withOperands 16 8 (fun n m => .pWriteIn (BitVec.ofNat 16 n) (BitVec.ofNat 8 m)) args
    else if op = "pwrite_len".toList then withOperand 32 (fun n => .pWriteLen (BitVec.ofNat 32 n)) args
    else if op = "pread_len".toList then withoutOperand [.pReadLen] args
    else if op = "pread_out".toList then withOperand 16 (fun n => .pReadOut (BitVec.ofNat 16 n)) args
    else if op = "produce".toList then
      match byteOperands args with
      | some bs => produce bs
      | none => none
    else if op = "tick".toList then withoutOperand tick args
    else if op = "service".toList then withoutOperand service args
    else none

/-- The events of one line of text, none where it is not of R82's or R83's syntax. The word of each is `encode` of it. -/
def assembleLine (line : List Char) : Option (List Instr) := eventsOfWords (wordsOf (withoutComment line) [])

end Sys2Proof.Machine
end

