-- ==== Sys2Proof/Machine/Run.lean ====
section
/-! DEFINITION. Runs: a list of events run one after another, the event trace run to its last event, settled states, the end
of a run and the observation made there (60_exceptions.md R163, decision D36). -/

namespace Sys2Proof.Machine

/-- The state after a list of events run one after another, if every one of them has a step. -/
def runEvents : List Instr → State → Option State
  | [], s => some s
  | i :: is, s =>
    match exec i s with
    | .next t => runEvents is t
    | _ => none

/-- The state after `n` steps, if every one of them answers a next state. -/
def runSteps : Nat → State → Option State
  | 0, s => some s
  | n + 1, s =>
    match step s with
    | .next t => runSteps n t
    | _ => none

/-- The state after the last event of the trace being executed; nothing where the trace holds an event that has no step, past
which it cannot be run (60_exceptions.md R149). -/
def runTrace (s : State) : Option State := runSteps s.events.length s

/-- A settled state (R163). `S.len = 0` is not part of it. -/
def State.settled (s : State) : Prop :=
  s.phase = .idle ∧ s.fault = none ∧ s.refused = false ∧ irqTimer s = false ∧ irqSwitch s = false

/-- The events the block takes of its own accord, once the trace has no event left: BOOT, the two dispatches and ACK. RESET
comes from outside, and RUN_TRANSFER, APPLY and RENDER are direct invocations (40_handshake.md R91; log 25). -/
def ownEvent : Instr → Bool
  | .boot | .dispatchTimer | .dispatchSwitch | .ack => true
  | .reset | .runTransfer _ | .apply _ _ | .render _ | .swSet _ | .timerExpire | .pWriteIn _ _ | .pWriteLen _ | .pReadLen
  | .pReadOut _ | .tIdent _ | .tInvert _ | .tBrighten _ | .tDarken _ | .tUnsupported _ _ => false

/-- `t` is the first settled state from `u` on, along some order of the block's own events. -/
def SettlesAt (u t : State) : Prop :=
  ∃ own : List Instr, (∀ i ∈ own, ownEvent i = true) ∧ runEvents own u = some t ∧ t.settled ∧
    ∀ a b v, own = a ++ b → b ≠ [] → runEvents a u = some v → ¬ v.settled

/-- The run of the trace that `s` still holds ends at `t`: the first settled state after the trace's last event (R163). -/
def EndsAt (s t : State) : Prop := ∃ u, runTrace s = some u ∧ SettlesAt u t

/-- What is read at the end of a run: `S.out`, `S.fb`, `S.disp`, `S.trace` and the two counters (R163). -/
structure Observation where
  outBuf : Memory
  fb : Memory
  disp : Vector Digit 6
  trace : List Token
  timeoutCount : Word32
  counter : Word32
  deriving DecidableEq, Repr

/-- The observation of a state (R163). -/
def observe (s : State) : Observation := ⟨s.outBuf, s.fb, s.disp, s.trace, s.timeoutCount, s.counter⟩

/-- The run of the trace that `s` still holds ends, and is observed as `o` at its end (R163). -/
def RunObserved (s : State) (o : Observation) : Prop := ∃ t, EndsAt s t ∧ observe t = o

end Sys2Proof.Machine
end

