-- ==== Sys2Proof/Safety.lean ====
section
/-! DEFINITION. What the statements talk about: when an event has a step, what an event leaves, and the invariant of
the machine. -/

namespace Sys2Proof.Machine

/-- The enabling condition of each event, as the rules give it one by one (R85, R90, R94 to R97, R100, R110, R122, R123, R125,
R140, R141, R170). The selector rows have none (41_transform.md section 2; log 4). -/
def enabled : Instr → State → Bool
  | .reset, _ => true
  | .boot, s => decide (s.phase = .boot)
  | .dispatchTimer, s => decide (s.phase = .idle) && s.gie && s.timerTo && s.cfg.timerIrqEn
  | .dispatchSwitch, s => decide (s.phase = .idle) && s.gie && decide (s.edgecap &&& s.cfg.swIrqMask ≠ 0)
  | .ack, s => decide (s.phase = .ack)
  | .runTransfer _, s => decide (s.phase = .idle)
  | .apply _ _, s => decide (s.phase = .idle)
  | .render _, s => decide (s.phase = .idle)
  | .swSet _, _ => true
  | .timerExpire, _ => true
  | .pWriteIn _ _, s => decide (s.len = 0)
  | .pWriteLen _, s => decide (s.len = 0)
  | .pReadLen, _ => true
  | .pReadOut _, _ => true
  | .tIdent _, _ => true
  | .tInvert _, _ => true
  | .tBrighten _, _ => true
  | .tDarken _, _ => true
  | .tUnsupported _ _, _ => true

/-! ### What the statements say about a transfer, a frame, a tick and a word -/

/-- Step 2 of a dispatch written as one record (43_dispatcher.md R129): with the timer's flag pending the tick is counted,
and every 10th one, tested after the increment, pulses the time of day and counts a second. -/
def State.ticked (s : State) : State :=
  if s.timerTo then
    { s with
      timerTo := false
      timerPeriod := s.cfg.timerPeriod
      timeoutCount := s.timeoutCount + 1
      counter := if (s.timeoutCount + 1).toNat % 10 = 0 then s.counter + 1 else s.counter
      trace := if (s.timeoutCount + 1).toNat % 10 = 0 then s.trace ++ [.todTick] else s.trace }
  else s

/-- The bytes below `n` of OutBuffer and LocalImageBuffer of `t` are the transforms, under selector `k`, of those of the
InBuffer of `s`; every other byte of the two is as it was (40_handshake.md R85 steps 3 to 5). -/
def bytesMoved (k : Word32) (n : Nat) (s t : State) : Prop :=
  ∀ i,
    t.outBuf.read i =
      (if i < n then (s.inBuf.read i).map (transformByte (selectTransform k)) else s.outBuf.read i) ∧
    t.localBuf.read i =
      (if i < n then (s.inBuf.read i).map (transformByte (selectTransform k)) else s.localBuf.read i)

/-- The surface `fb` shows the image of side `side` in `img`, centred, and background elsewhere (42_compositor.md R110 step 4). -/
def frameShown (side : Nat) (img fb : Memory) : Prop :=
  ∀ x y, x < 320 → y < 240 →
    fb.read (y * 320 + x) =
      if (320 - side) / 2 ≤ x ∧ x < (320 - side) / 2 + side ∧ (240 - side) / 2 ≤ y ∧ y < (240 - side) / 2 + side then
        (img.read ((y - (240 - side) / 2) * side + (x - (320 - side) / 2))).map grayTo332
      else some 0x00

/-- Every byte of `m` below `n` holds a value. -/
def definedBelow (n : Nat) (m : Memory) : Prop := ∀ i, i < n → ∃ b, m.read i = some b

/-- `i` is the least offset of `m` below `n` that holds undef. -/
def leastUndef (n i : Nat) (m : Memory) : Prop := i < n ∧ m.read i = none ∧ definedBelow i m

/-- The state `s` with the fault `f` taken: exactly the two writes of 60_exceptions.md R150, the record that of the run's first
fault (10_state.md R37; log 13). -/
def State.faulted (f : FaultRecord) (s : State) : State := { s with fault := s.fault.or (some f), phase := .fault }

/-- Bit `j` of `w[55:0]` belongs to a field of the format of the event code `code` (30_encoding.md R73, R74). -/
def fieldBit (code j : Nat) : Bool :=
  match code with
  | 0x03 => decide (j < 2)
  | 0x05 => decide (j < 1)
  | 0x06 => decide (j < 17) || (decide (24 ≤ j) && decide (j < 56))
  | 0x07 => decide (j < 17)
  | 0x10 => decide (j < 32)
  | 0x20 => decide (j < 8) || (decide (32 ≤ j) && decide (j < 48))
  | 0x21 => decide (j < 32)
  | 0x23 => decide (32 ≤ j) && decide (j < 48)
  | _ => false

/-- The event codes of 30_encoding.md R74. -/
def eventCodes : List Nat := [0x01, 0x02, 0x03, 0x04, 0x05, 0x06, 0x07, 0x10, 0x11, 0x20, 0x21, 0x22, 0x23]

/-- The field constraints of 30_encoding.md R76 to R78 on a word. -/
def constraintHolds (swWidth : Nat) (w : EventWord) : Prop :=
  (w.toNat / 2 ^ 56 = 0x03 → w.toNat % 4 < 2) ∧
  (w.toNat / 2 ^ 56 = 0x06 → w.toNat % 2 ^ 17 ≤ 65536) ∧
  (w.toNat / 2 ^ 56 = 0x07 → w.toNat % 2 ^ 17 ≤ 65536) ∧
  (w.toNat / 2 ^ 56 = 0x10 → w.toNat % 2 ^ 32 < 2 ^ swWidth)

/-- How far into LocalImageBuffer an event reads bytes that no earlier part of the same event wrote (10_state.md R44). -/
def localReach : Instr → Nat
  | .apply len _ => len.toNat
  | .render len => len.toNat
  | _ => 0

/-- The events during which the block may run a transfer (40_handshake.md R85, R90; 43_dispatcher.md R123). -/
def mayTransfer : Instr → Bool
  | .boot => true
  | .runTransfer _ => true
  | .dispatchSwitch => true
  | _ => false

/-- A region is in its canonical form and inside its size (20_memory.md R46). -/
abbrev Memory.ok (size : Nat) (m : Memory) : Prop := m.wf ∧ m.within size

/-- The invariant of the block: what holds at reset and after every step. -/
structure State.Inv (s : State) : Prop where
  /-- The parameters are in their ranges (00_scope.md R12 to R15, 20_memory.md R50). -/
  params : s.cfg.Valid
  /-- `S.sw` has SW_WIDTH bits (10_state.md R31). -/
  swBits : s.sw.toNat < 2 ^ s.cfg.swWidth
  /-- `S.snap` has SW_WIDTH bits (10_state.md R26). -/
  snapBits : s.snap.toNat < 2 ^ s.cfg.swWidth
  /-- `S.edgecap` has SW_WIDTH bits (10_state.md R23). -/
  edgecapBits : s.edgecap.toNat < 2 ^ s.cfg.swWidth
  /-- The timer period register holds TIMER_PERIOD (10_state.md R41). -/
  period : s.timerPeriod = s.cfg.timerPeriod
  inOk : s.inBuf.ok Config.maxImageBytes
  outOk : s.outBuf.ok Config.maxImageBytes
  localOk : s.localBuf.ok Config.maxImageBytes
  fbOk : s.fb.ok Config.surfPixels
  /-- Interrupts are off from RESET to the end of BOOT (70_reset_and_hazards.md R172). -/
  gieOff : s.phase = .boot → s.gie = false
  /-- Interrupts stay on after BOOT (10_state.md R21). -/
  gieOn : s.phase = .idle ∨ s.phase = .ack → s.gie = true
  /-- The phase FAULT is left only with a fault recorded (10_state.md R37). -/
  faultRecorded : s.phase = .fault → s.fault.isSome = true
  /-- Only a dispatch that passed the exit bail-out awaits its ACK (43_dispatcher.md R124). -/
  ackPassedExit : s.phase = .ack → exitBit s.snap = false

end Sys2Proof.Machine
end

