-- ==== Sys2Proof/Certificates/Slice0/Obligations.lean ====
section
/-! DEFINITION. The statements for the provers, each formalising rules of spec/. -/

open Sys2Proof Sys2Proof.Machine

/-! ### Reset and launch -/

/-- R170: RESET steps from every state. The block's own state is cleared, edgecap is some SW_WIDTH-bit value, to and disp are
any values, and sw, len, in, out, fault, refused and trace are unchanged. (Of the period register R170 says nothing: log 15.) -/
def Obligations.ResetClearsBlockState : Prop :=
  ∀ s : State,
    ∃ t, exec .reset s = .next t ∧
      t = { s with
        phase := .boot, gie := false, snap := 0, prevConfirm := false, timeoutCount := 0, counter := 0,
        edgecap := t.edgecap, timerTo := t.timerTo, timerPeriod := t.timerPeriod, disp := t.disp,
        localBuf := [], fb := [], draws := t.draws } ∧
      t.edgecap.toNat < 2 ^ s.cfg.swWidth ∧
      (∀ x, t.localBuf.read x = none ∧ t.fb.read x = none)

/-- R20, R21, R26 to R29, R35 to R40: the fields whose reset value the spec gives hold it in State.reset. -/
def Obligations.ResetStateHoldsGivenValues : Prop :=
  State.reset.phase = .boot ∧ State.reset.gie = false ∧ State.reset.snap = 0 ∧ State.reset.prevConfirm = false ∧
  State.reset.timeoutCount = 0 ∧ State.reset.counter = 0 ∧ State.reset.fault = none ∧ State.reset.refused = false ∧
  State.reset.trace = [] ∧ ∀ x, State.reset.localBuf.read x = none ∧ State.reset.fb.read x = none

/-- R171, R172: in phase BOOT, where every run begins, the only events of the block that step are BOOT and RESET. (The
selector rows are the model's own direct invocations, log 4.) -/
def Obligations.OnlyBootOrResetStartsARun : Prop :=
  State.reset.phase = .boot ∧
  ∀ (i : Instr) (s t : State), s.phase = .boot → exec i s = .next t → i.agent = .block →
    i = .reset ∨ i = .boot ∨ (∃ v, i = .tIdent v) ∨ (∃ v, i = .tInvert v) ∨ (∃ v, i = .tBrighten v) ∨ (∃ v, i = .tDarken v) ∨
    (∃ k v, i = .tUnsupported k v)

/-- The invariant holds at reset (it rests on the launch values of log 7, 8 and 9). -/
def Obligations.InvariantHoldsAtReset : Prop := State.reset.Inv

/-! ### The transform engine -/

/-- R66, R101 to R105: what the function chosen by each selector value does to a byte. -/
def Obligations.SelectorChoosesItsByteFunction : Prop :=
  ∀ (k : Word32) (v : Byte),
    (k.toNat = 0 → transformByte (selectTransform k) v = v) ∧
    (k.toNat = 1 → (transformByte (selectTransform k) v).toNat = 255 - v.toNat) ∧
    (k.toNat = 2 → (transformByte (selectTransform k) v).toNat = min 255 (v.toNat + 50)) ∧
    (k.toNat = 3 → (transformByte (selectTransform k) v).toNat = if 50 ≤ v.toNat then v.toNat - 50 else 0) ∧
    (4 ≤ k.toNat → transformByte (selectTransform k) v = v)

/-- R101 to R105: each selector row, run on one byte, steps in every state and hands back its function of the byte; no state
of the block changes (log 4, log 5). -/
def Obligations.SelectorRowsAnswerTheirByte : Prop :=
  ∀ (v : Byte) (k : Word32) (s : State),
    exec (.tIdent v) s = .next { s with returned := .laneByte v } ∧
    (∃ r : Byte, r.toNat = 255 - v.toNat ∧ exec (.tInvert v) s = .next { s with returned := .laneByte r }) ∧
    (∃ r : Byte, r.toNat = min 255 (v.toNat + 50) ∧ exec (.tBrighten v) s = .next { s with returned := .laneByte r }) ∧
    (∃ r : Byte, r.toNat = v.toNat - 50 ∧ exec (.tDarken v) s = .next { s with returned := .laneByte r }) ∧
    exec (.tUnsupported k v) s = .next { s with returned := .laneByte v }

/-- R100, R106: APPLY in IDLE over bytes that all hold values maps the selected function over the first `len` bytes of
LocalImageBuffer and changes nothing else. -/
def Obligations.ApplyMapsBytesInPlace : Prop :=
  ∀ (len : BitVec 17) (k : Word32) (s : State), s.phase = .idle → s.localBuf.wf → definedBelow len.toNat s.localBuf →
    ∃ t, exec (.apply len k) s = .next t ∧ t = { s with localBuf := t.localBuf } ∧
      ∀ i, t.localBuf.read i =
        if i < len.toNat then (s.localBuf.read i).map (transformByte (selectTransform k)) else s.localBuf.read i

/-- R100, R54, R150: APPLY in IDLE over an undef byte takes F_UNDEF_READ with the least offset and writes nothing else.
(Where an earlier fault is recorded that record stays, log 13; lengths above 65536, which no word gives, are log 21.) -/
def Obligations.ApplyFaultsOnUndef : Prop :=
  ∀ (len : BitVec 17) (k : Word32) (i : Nat) (s : State), s.phase = .idle → s.localBuf.wf →
    leastUndef len.toNat i s.localBuf → exec (.apply len k) s = .next (s.faulted (.undefRead .localBuf i))

/-- R107: APPLY with selector 1 twice restores the whole machine. -/
def Obligations.ApplyInvertTwiceRestores : Prop :=
  ∀ (len : BitVec 17) (s : State), s.phase = .idle → s.localBuf.wf → definedBelow len.toNat s.localBuf →
    ∃ t, exec (.apply len 1) s = .next t ∧ exec (.apply len 1) t = .next s

/-- R107: invert is its own inverse and antitone; brighten and darken are monotone and not inverse to each other. -/
def Obligations.TransformLaws : Prop :=
  (∀ v : Byte, invertByte (invertByte v) = v) ∧
  (∀ v w : Byte, v.toNat ≤ w.toNat → (brightenByte v).toNat ≤ (brightenByte w).toNat ∧
    (darkenByte v).toNat ≤ (darkenByte w).toNat ∧ (invertByte w).toNat ≤ (invertByte v).toNat) ∧
  darkenByte (brightenByte 250) = 205 ∧ brightenByte (darkenByte 10) = 50

/-! ### The compositor -/

/-- R111: the probe gives the exact square root of a perfect square, and nothing for any other length. -/
def Obligations.IsqrtExactFindsTheRoot : Prop :=
  ∀ len i : Nat, isqrtExact len = some i ↔ i * i = len

/-- R67, R115: the channels of a converted gray byte, read back from its bits. -/
def Obligations.GrayChannelsReadBack : Prop :=
  ∀ g : Byte, redOf (grayTo332 g) = g.toNat * 7 / 255 ∧ greenOf (grayTo332 g) = g.toNat * 7 / 255 ∧
    blueOf (grayTo332 g) = g.toNat * 3 / 255

/-- R110, R113, R118: RENDER in IDLE of a perfect square that fits, over bytes that hold values, writes every pixel of the
surface, foreground or background, and changes nothing else. -/
def Obligations.RenderDrawsTheWholeFrame : Prop :=
  ∀ (len : BitVec 17) (side : Nat) (s : State), s.phase = .idle → s.localBuf.wf → side * side = len.toNat → side ≤ 240 →
    definedBelow len.toNat s.localBuf →
    ∃ t, exec (.render len) s = .next t ∧ t = { s with fb := t.fb } ∧ frameShown side s.localBuf t.fb

/-- R117: where the length is no perfect square the compositor, as RENDER in IDLE and inside a transfer, appends one
SIZING_ERROR and changes nothing else. -/
def Obligations.RenderReportsNonSquare : Prop :=
  (∀ (n : Nat) (s : State), isqrtExact n = none → compose n s = .ok { s with trace := s.trace ++ [.sizingError] }) ∧
  ∀ (len : BitVec 17) (s : State), s.phase = .idle → (∀ i : Nat, i * i ≠ len.toNat) →
    exec (.render len) s = .next { s with trace := s.trace ++ [.sizingError] }

/-- R114, R110, R54, R150: RENDER in IDLE of a perfect square whose root is above 240 takes F_GEOMETRY, whatever
LocalImageBuffer holds; of a square that fits, over an undef byte, F_UNDEF_READ with the least offset. Either writes nothing
else. (Where an earlier fault is recorded that record stays, log 13; lengths above 65536, which no word gives, are log 21.) -/
def Obligations.RenderFaultsCommitNothing : Prop :=
  (∀ (len : BitVec 17) (side : Nat) (s : State), s.phase = .idle → side * side = len.toNat → 240 < side →
    exec (.render len) s = .next (s.faulted (.geometry side))) ∧
  ∀ (len : BitVec 17) (side i : Nat) (s : State), s.phase = .idle → s.localBuf.wf → side * side = len.toNat → side ≤ 240 →
    leastUndef len.toNat i s.localBuf → exec (.render len) s = .next (s.faulted (.undefRead .localBuf i))

/-- R119: of the 76800 pixels, exactly side² are inside an image of that side. -/
def Obligations.FrameHasSideSquaredForegroundPixels : Prop :=
  ∀ side : Nat, side ≤ 240 →
    ((List.range 76800).countP (fun p => insideImage side (p % 320) (p / 320))) = side * side

/-! ### The transfer handshake -/

/-- R87: RUN_TRANSFER with a zero length register changes nothing. -/
def Obligations.RunTransferAtZeroIsNoOp : Prop :=
  ∀ (render : Bool) (s : State), s.phase = .idle → s.len = 0 → exec (.runTransfer render) s = .next s

/-- R85 without rendering, R86: the clamped length's bytes are copied, transformed under the live switches' selector and
written back, and the length register is cleared; nothing else changes. -/
def Obligations.RunTransferMovesBytesWithoutRender : Prop :=
  ∀ s : State, s.phase = .idle → s.len ≠ 0 → s.inBuf.wf → definedBelow (min s.len.toNat 65536) s.inBuf →
    ∃ t, exec (.runTransfer false) s = .next t ∧
      t = { s with len := 0, outBuf := t.outBuf, localBuf := t.localBuf } ∧
      bytesMoved (s.sw >>> 2) (min s.len.toNat 65536) s t

/-- R85 with rendering of a perfect square that fits: the transfer, and the frame of the transformed bytes. -/
def Obligations.RunTransferRendersSquare : Prop :=
  ∀ (side : Nat) (s : State), s.phase = .idle → s.len ≠ 0 → s.inBuf.wf → definedBelow (min s.len.toNat 65536) s.inBuf →
    side * side = min s.len.toNat 65536 → side ≤ 240 →
    ∃ t, exec (.runTransfer true) s = .next t ∧
      t = { s with len := 0, outBuf := t.outBuf, localBuf := t.localBuf, fb := t.fb } ∧
      bytesMoved (s.sw >>> 2) (min s.len.toNat 65536) s t ∧ frameShown side t.localBuf t.fb

/-- R85 with rendering of a length that is no square, R117: the transfer completes and is acknowledged, one SIZING_ERROR is
reported and the surface is untouched. -/
def Obligations.RunTransferReportsNonSquare : Prop :=
  ∀ s : State, s.phase = .idle → s.len ≠ 0 → s.inBuf.wf → definedBelow (min s.len.toNat 65536) s.inBuf →
    (∀ i : Nat, i * i ≠ min s.len.toNat 65536) →
    ∃ t, exec (.runTransfer true) s = .next t ∧
      t = { s with len := 0, outBuf := t.outBuf, localBuf := t.localBuf, trace := s.trace ++ [.sizingError] } ∧
      bytesMoved (s.sw >>> 2) (min s.len.toNat 65536) s t

/-- R85, R114, R54, R150: a transfer over an undef inbound byte takes F_UNDEF_READ in region IN with the least offset; with
rendering, one whose clamped length is a square above 240² takes F_GEOMETRY. Either writes nothing else. (Where
an earlier fault is recorded that record stays, log 13.) -/
def Obligations.RunTransferFaultsCommitNothing : Prop :=
  (∀ (render : Bool) (i : Nat) (s : State), s.phase = .idle → s.len ≠ 0 → s.inBuf.wf →
    leastUndef (min s.len.toNat 65536) i s.inBuf →
    exec (.runTransfer render) s = .next (s.faulted (.undefRead .inBuf i))) ∧
  (∀ (side : Nat) (s : State), s.phase = .idle → s.len ≠ 0 → s.inBuf.wf → definedBelow (min s.len.toNat 65536) s.inBuf →
    side * side = min s.len.toNat 65536 → 240 < side →
    exec (.runTransfer true) s = .next (s.faulted (.geometry side)))

/-- R99: a transfer that did not fault leaves the length register zero, inside BOOT and a dispatch as well as on its own; a
faulted one leaves it as it was. -/
def Obligations.RunTransferLeavesLengthZeroUnlessFault : Prop :=
  (∀ (k : Word32) (render : Bool) (s t : State), runTransfer k render s = .ok t → t.len = 0) ∧
  ∀ (render : Bool) (s t : State), exec (.runTransfer render) s = .next t →
    (t.phase ≠ .fault ∧ t.len = 0) ∨ (t.phase = .fault ∧ t.len = s.len)

/-- R90 with no length pending: only snap, gie and phase change. -/
def Obligations.BootWithoutRequest : Prop :=
  ∀ s : State, s.phase = .boot → s.len = 0 → exec .boot s = .next { s with snap := s.sw, gie := true, phase := .idle }

/-- R90, R92, R93 with a length pending: the one-shot transfer without rendering, whatever the exit and confirm bits. -/
def Obligations.BootServesThePendingRequest : Prop :=
  ∀ s : State, s.phase = .boot → s.len ≠ 0 → s.inBuf.wf → definedBelow (min s.len.toNat 65536) s.inBuf →
    ∃ t, exec .boot s = .next t ∧
      t = { s with snap := s.sw, gie := true, phase := .idle, len := 0, outBuf := t.outBuf, localBuf := t.localBuf } ∧
      bytesMoved (s.sw >>> 2) (min s.len.toNat 65536) s t

/-- R90, R54, R150: a boot transfer over an undef inbound byte faults; gie stays and the snapshot is discarded. (Where an
earlier fault is recorded, as after a RESET, that record stays, log 13.) -/
def Obligations.BootFaultsOnUndef : Prop :=
  ∀ (i : Nat) (s : State), s.phase = .boot → s.len ≠ 0 → s.inBuf.wf → leastUndef (min s.len.toNat 65536) i s.inBuf →
    exec .boot s = .next (s.faulted (.undefRead .inBuf i))

/-! ### The producer -/

/-- R94, R95: while the length register is zero the producer writes one byte of InBuffer, or the whole length, and nothing else
changes; while it is non-zero neither write has a step. -/
def Obligations.ProducerWritesOnlyWhileLengthIsZero : Prop :=
  ∀ (off : BitVec 16) (b : Byte) (v : Word32) (s : State),
    (s.len = 0 →
      (∃ t, exec (.pWriteIn off b) s = .next t ∧ t = { s with inBuf := t.inBuf } ∧
        ∀ x, t.inBuf.read x = if x = off.toNat then some b else s.inBuf.read x) ∧
      exec (.pWriteLen v) s = .next { s with len := v }) ∧
    (s.len ≠ 0 →
      ∀ t, exec (.pWriteIn off b) s ≠ .next t ∧ exec (.pWriteLen v) s ≠ .next t)

/-- R96, R97: in every state the producer's reads step. P_READ_LEN hands back the length register; P_READ_OUT the byte of
OutBuffer when the length register is zero and the byte holds a value, and some byte otherwise. The block's state is unchanged. -/
def Obligations.ProducerReadsHandBackValues : Prop :=
  ∀ (off : BitVec 16) (s : State),
    exec .pReadLen s = .next { s with returned := .len s.len } ∧
    (∀ b, s.len = 0 → s.outBuf.read off.toNat = some b → exec (.pReadOut off) s = .next { s with returned := .outByte b }) ∧
    ((s.len ≠ 0 ∨ s.outBuf.read off.toNat = none) →
      ∃ t b, exec (.pReadOut off) s = .next t ∧ t = { s with returned := .outByte b, draws := t.draws })

/-- R83: the pseudo-event `produce` fills InBuffer from offset 0 with its bytes and then requests their number. -/
def Obligations.ProduceFillsThenRequests : Prop :=
  ∀ (bs : List Byte) (is : List Instr) (s : State), s.len = 0 → produce bs = some is →
    ∃ t, runEvents is s = some t ∧ t = { s with len := t.len, inBuf := t.inBuf } ∧ t.len.toNat = bs.length ∧
      ∀ x, t.inBuf.read x = if h : x < bs.length then some bs[x] else s.inBuf.read x

/-- R98: if the length k is written, no other length is, and the register later reads zero, then exactly one transfer ran in
between: at one event e, in a state u, under the selector of u's switches; the length is k up to it and zero from it on;
OutBuffer was untouched before and after it and holds the transforms of the InBuffer of u. -/
def Obligations.CompletionSeenByProducer : Prop :=
  ∀ (k : Word32) (is : List Instr) (s t0 t : State), k ≠ 0 → exec (.pWriteLen k) s = .next t0 → runEvents is t0 = some t →
    (∀ i ∈ is, ∀ v, i ≠ .pWriteLen v) → t.len = 0 →
    ∃ a e b u v, is = a ++ e :: b ∧ runEvents a t0 = some u ∧ exec e u = .next v ∧ runEvents b v = some t ∧
      mayTransfer e = true ∧ u.len = k ∧ v.len = 0 ∧ u.outBuf = t0.outBuf ∧ t.outBuf = v.outBuf ∧
      definedBelow (min k.toNat 65536) u.inBuf ∧ bytesMoved (u.sw >>> 2) (min k.toNat 65536) u v ∧
      (∀ p w, p <+: a → runEvents p t0 = some w → w.len = k) ∧ (∀ p w, p <+: b → runEvents p v = some w → w.len = 0)

/-! ### The dispatcher -/

/-- R132, R70: the digit update changes only the banks, which read back the snapshot's selector or the sentinel, the minutes
and the seconds, each bank a decimal digit. -/
def Obligations.DigitsReadBackSelectorAndTime : Prop :=
  ∀ s : State, s.cfg.selDisplayMax ≤ 99 →
    let d := (digitUpdate s).disp
    let k := s.snap.toNat / 4
    digitUpdate s = { s with disp := d } ∧
    (digitCode d[0] ≤ 9 ∧ digitCode d[1] ≤ 9 ∧ 10 * digitCode d[1] + digitCode d[0] = s.counter.toNat % 60) ∧
    (digitCode d[2] ≤ 9 ∧ digitCode d[3] ≤ 9 ∧ 10 * digitCode d[3] + digitCode d[2] = s.counter.toNat / 60 % 100) ∧
    (k ≤ s.cfg.selDisplayMax → digitCode d[4] ≤ 9 ∧ digitCode d[5] ≤ 9 ∧ 10 * digitCode d[5] + digitCode d[4] = k) ∧
    (s.cfg.selDisplayMax < k → d[4] = .ovf ∧ d[5] = .ovf)

/-- R122, R129, R133: in IDLE, with interrupts on and the timer interrupt pending, a timer dispatch snapshots the switches, counts
the tick and updates the digits; nothing else changes, whatever the switches and the length hold. Elsewhere it has no step. -/
def Obligations.TimerDispatchServicesTheTick : Prop :=
  (∀ s : State, s.phase = .idle → s.gie = true → s.timerTo = true → s.cfg.timerIrqEn = true →
    exec .dispatchTimer s = .next { s.ticked with
      snap := s.sw, disp := digitBanks s.cfg.selDisplayMax (s.sw >>> 2) s.ticked.counter }) ∧
  ∀ s : State, ¬ (s.phase = .idle ∧ s.gie = true ∧ s.timerTo = true ∧ s.cfg.timerIrqEn = true) →
    ∀ t, exec .dispatchTimer s ≠ .next t

/-- R124, R144: an enabled switch dispatch whose exit bit is 1 does steps 1 and 2 and no more, and is enabled again at once. -/
def Obligations.SwitchDispatchExitBailsOut : Prop :=
  ∀ s : State, s.phase = .idle → s.gie = true → s.edgecap &&& s.cfg.swIrqMask ≠ 0 → s.sw.getLsbD 0 = true →
    exec .dispatchSwitch s = .next { s.ticked with snap := s.sw } ∧
    enabled .dispatchSwitch { s.ticked with snap := s.sw } = true

/-- R123, R127, R128: an enabled switch dispatch past the exit test, with no length pending or no change of the confirm bit,
starts no transfer, retains the confirm bit and awaits its ACK. -/
def Obligations.SwitchDispatchWithoutTransfer : Prop :=
  ∀ s : State, s.phase = .idle → s.gie = true → s.edgecap &&& s.cfg.swIrqMask ≠ 0 → s.sw.getLsbD 0 = false →
    (s.len = 0 ∨ s.sw.getLsbD 1 = s.prevConfirm) →
    exec .dispatchSwitch s = .next { s.ticked with snap := s.sw, prevConfirm := s.sw.getLsbD 1, phase := .ack }

/-- R123, R127, R135 (b): an enabled switch dispatch past the exit test that sees a change of the confirm bit, in either
direction, with a length pending runs one transfer with rendering under the snapshot's selector and awaits its ACK: for a
square that fits, with the frame; for a length that is no square, with one report and the surface untouched. -/
def Obligations.SwitchDispatchEdgeTransfers : Prop :=
  ∀ s : State, s.phase = .idle → s.gie = true → s.edgecap &&& s.cfg.swIrqMask ≠ 0 → s.sw.getLsbD 0 = false →
    s.len ≠ 0 → s.sw.getLsbD 1 ≠ s.prevConfirm → s.inBuf.wf → definedBelow (min s.len.toNat 65536) s.inBuf →
    (∀ side : Nat, side * side = min s.len.toNat 65536 → side ≤ 240 →
      ∃ t, exec .dispatchSwitch s = .next t ∧
        t = { s.ticked with
          snap := s.sw, prevConfirm := s.sw.getLsbD 1, phase := .ack, len := 0, outBuf := t.outBuf, localBuf := t.localBuf,
          fb := t.fb } ∧
        bytesMoved (s.sw >>> 2) (min s.len.toNat 65536) s t ∧ frameShown side t.localBuf t.fb) ∧
    ((∀ i : Nat, i * i ≠ min s.len.toNat 65536) →
      ∃ t, exec .dispatchSwitch s = .next t ∧
        t = { s.ticked with
          snap := s.sw, prevConfirm := s.sw.getLsbD 1, phase := .ack, len := 0, outBuf := t.outBuf, localBuf := t.localBuf,
          trace := s.ticked.trace ++ [.sizingError] } ∧
        bytesMoved (s.sw >>> 2) (min s.len.toNat 65536) s t)

/-- R123, R150: a switch dispatch whose transfer faults commits neither its snapshot, nor the tick, nor the retained
bit. (Where an earlier fault is recorded that record stays, log 13.) -/
def Obligations.SwitchDispatchFaultCommitsNothing : Prop :=
  ∀ s : State, s.phase = .idle → s.gie = true → s.edgecap &&& s.cfg.swIrqMask ≠ 0 → s.sw.getLsbD 0 = false →
    s.len ≠ 0 → s.sw.getLsbD 1 ≠ s.prevConfirm → s.inBuf.wf →
    (∀ i, leastUndef (min s.len.toNat 65536) i s.inBuf →
      exec .dispatchSwitch s = .next (s.faulted (.undefRead .inBuf i))) ∧
    (∀ side : Nat, definedBelow (min s.len.toNat 65536) s.inBuf → side * side = min s.len.toNat 65536 → 240 < side →
      exec .dispatchSwitch s = .next (s.faulted (.geometry side)))

/-- R125: ACK, in phase ACK, clears every captured edge of the switch port, shows the snapshot's selector and the time, and
returns to IDLE. In every other phase it has no step. -/
def Obligations.AckClearsEveryEdge : Prop :=
  (∀ s : State, s.phase = .ack → s.edgecap.toNat < 2 ^ s.cfg.swWidth →
    exec .ack s = .next { s with
      edgecap := 0, disp := digitBanks s.cfg.selDisplayMax (s.snap >>> 2) s.counter, phase := .idle }) ∧
  ∀ s t : State, s.phase ≠ .ack → exec .ack s ≠ .next t

/-- R139: from its service part to its ACK a dispatch keeps its snapshot and its phase, whatever else happens but RESET. -/
def Obligations.SnapshotHeldUntilAck : Prop :=
  ∀ (i : Instr) (s t : State), s.phase = .ack → exec i s = .next t → i ≠ .reset →
    t.snap = s.snap ∧ (i ≠ .ack → t.phase = .ack)

/-- R178: a switch change between the service part and the ACK is captured and then cleared with the rest, its level unseen. -/
def Obligations.EdgeBeforeAckIsLost : Prop :=
  ∀ (v : Word32) (s : State), s.Inv → s.phase = .ack → v.toNat < 2 ^ s.cfg.swWidth →
    ∃ t, runEvents [.swSet v, .ack] s = some t ∧ t.sw = v ∧ t.edgecap = 0 ∧ t.snap = s.snap ∧ t.prevConfirm = s.prevConfirm ∧
      enabled .dispatchSwitch t = false

/-- R135 (a): two switch dispatches past the exit test with the same confirm bit, with none that passes it between them,
start at most one transfer: the second starts none. -/
def Obligations.HeldConfirmTransfersOnce : Prop :=
  ∀ (is : List Instr) (s1 t1 s2 t2 : State), exec .dispatchSwitch s1 = .next t1 → t1.phase = .ack →
    runEvents is t1 = some s2 → .reset ∉ is →
    (∀ a b u, is = a ++ .dispatchSwitch :: b → runEvents a t1 = some u → u.sw.getLsbD 0 = true) →
    exec .dispatchSwitch s2 = .next t2 → s2.sw.getLsbD 1 = s1.sw.getLsbD 1 →
    t2.len = s2.len ∧ t2.outBuf = s2.outBuf ∧ t2.localBuf = s2.localBuf ∧ t2.fb = s2.fb ∧ t2.phase ≠ .fault

/-- R24, R131: any number of expiries before one dispatch count as one tick. -/
def Obligations.ExpiriesCoalesceIntoOneTick : Prop :=
  ∀ (k : Nat) (s : State), s.phase = .idle → s.gie = true → s.cfg.timerIrqEn = true →
    ∃ t, runEvents (List.replicate (k + 1) .timerExpire ++ [.dispatchTimer]) s = some t ∧
      t.timeoutCount = s.timeoutCount + 1 ∧ t.timerTo = false

/-- R143: with both sources pending either dispatch steps, and after the timer's the switch source is still pending. -/
def Obligations.EitherPendingSourceMayGoFirst : Prop :=
  ∀ s : State, s.phase = .idle → s.gie = true → s.timerTo = true → s.cfg.timerIrqEn = true →
    s.edgecap &&& s.cfg.swIrqMask ≠ 0 →
    (∃ t, exec .dispatchTimer s = .next t ∧ enabled .dispatchSwitch t = true) ∧ (∃ t, exec .dispatchSwitch s = .next t)

/-! ### The environment -/

/-- R140, R141, R23, R24: SW_SET captures exactly the changed bits, keeping those captured before, and sets the switches;
TIMER_EXPIRE sets the pending flag. Both step in every state and change nothing else. (Values of more than
SW_WIDTH bits, which the decoder refuses, are log 21.) -/
def Obligations.EnvironmentEventsCapture : Prop :=
  ∀ (v : Word32) (s : State),
    (∃ t, exec (.swSet v) s = .next t ∧ t = { s with sw := v, edgecap := t.edgecap } ∧
      ∀ i : Nat, t.edgecap.getLsbD i = (s.edgecap.getLsbD i || (s.sw.getLsbD i != v.getLsbD i))) ∧
    exec .timerExpire s = .next { s with timerTo := true }

/-! ### Rules about the whole machine -/

/-- R146, R149: an event steps exactly where its enabling condition holds, and elsewhere stops by the name of its agent's
reason: a wait of the block, or a breach the producer is assumed not to make. -/
def Obligations.EventsStepExactlyWhenEnabled : Prop :=
  ∀ (i : Instr) (s : State),
    (enabled i s = true → ∃ t, exec i s = .next t) ∧
    (enabled i s = false →
      (i.agent = .block ∧ ∃ e, exec i s = .fault (.blockNotEnabled e)) ∨
      (i.agent = .producer ∧ ∃ e, exec i s = .fault (.producerNotEnabled e)))

/-- R126, R138: between a switch dispatch and its ACK no dispatch, BOOT, RUN_TRANSFER, APPLY or RENDER steps. R150: in FAULT
no block event but RESET steps. -/
def Obligations.NoBlockEventInAckOrFault : Prop :=
  ∀ (i : Instr) (s t : State), exec i s = .next t →
    ((s.phase = .ack ∨ s.phase = .fault) → i ≠ .boot ∧ i ≠ .dispatchTimer ∧ i ≠ .dispatchSwitch ∧
      (∀ r, i ≠ .runTransfer r) ∧ (∀ n k, i ≠ .apply n k) ∧ (∀ n, i ≠ .render n)) ∧
    (s.phase = .fault → i ≠ .ack)

/-- R37, R38, R40, R150, R152: S.fault is set once: a recorded fault stays that very record (log 13), and where S.fault changes
the phase is FAULT. No step clears the refusal mark, removes a token, or changes a parameter. -/
def Obligations.RecordIsNeverCleared : Prop :=
  ∀ s t : State, step s = .next t →
    (∀ f, s.fault = some f → t.fault = some f) ∧ (t.fault ≠ s.fault → t.phase = .fault) ∧ (s.refused = true → t.refused = true) ∧ s.trace <+: t.trace ∧
    t.cfg = s.cfg

/-- R21: gie is set at the end of BOOT, is cleared only by RESET, and is written by nothing else; while it is 0 no dispatch
has a step. -/
def Obligations.GieWrittenOnlyByBootAndReset : Prop :=
  (∀ (i : Instr) (s t : State), exec i s = .next t →
    (s.gie = false → t.gie = true → i = .boot) ∧ (s.gie = true → t.gie = false → i = .reset)) ∧
  (∀ s t : State, exec .boot s = .next t → t.phase ≠ .fault → t.gie = true) ∧
  (∀ s t : State, exec .reset s = .next t → t.gie = false) ∧
  ∀ s t : State, s.gie = false → exec .dispatchTimer s ≠ .next t ∧ exec .dispatchSwitch s ≠ .next t

/-- R27, R128, R133: only RESET and a switch dispatch that passes the exit test change the retained confirm bit; every such
dispatch leaves the confirm bit of the switches in it, whether or not it transfers. -/
def Obligations.RetainedConfirmWrittenOnlyByService : Prop :=
  (∀ (i : Instr) (s t : State), exec i s = .next t → t.prevConfirm ≠ s.prevConfirm →
    (i = .reset ∧ t.prevConfirm = false) ∨
    (i = .dispatchSwitch ∧ s.sw.getLsbD 0 = false ∧ t.phase = .ack)) ∧
  ∀ s t : State, exec .dispatchSwitch s = .next t → t.phase = .ack → t.prevConfirm = s.sw.getLsbD 1

/-- R28, R29, R134: only a dispatch with the timer's flag pending counts a tick, whatever its cause, and it counts one; RESET
clears the counts. -/
def Obligations.TickCountedOnlyByDispatch : Prop :=
  ∀ (i : Instr) (s t : State), exec i s = .next t → t.timeoutCount ≠ s.timeoutCount →
    (i = .reset ∧ t.timeoutCount = 0) ∨
    ((i = .dispatchTimer ∨ i = .dispatchSwitch) ∧ s.timerTo = true ∧ t.timerTo = false ∧
      t.timeoutCount = s.timeoutCount + 1)

/-- R32, R60: the length register leaves zero only by a producer's write, and leaves a non-zero value only to zero, in an event
that runs a transfer. -/
def Obligations.LengthRegisterOwnership : Prop :=
  ∀ (i : Instr) (s t : State), exec i s = .next t → t.len ≠ s.len →
    (s.len = 0 ∧ i = .pWriteLen t.len) ∨ (s.len ≠ 0 ∧ t.len = 0 ∧ mayTransfer i = true)

/-- R33, R34, R89: InBuffer changes only by a producer's write while the length register is zero; OutBuffer only in an event
that runs a transfer of a pending length, only below that length's clamp, and only with the acknowledgment. -/
def Obligations.BufferOwnership : Prop :=
  ∀ (i : Instr) (s t : State), exec i s = .next t →
    (t.inBuf ≠ s.inBuf → s.len = 0 ∧ ∃ off b, i = .pWriteIn off b) ∧
    (t.outBuf ≠ s.outBuf → s.len ≠ 0 ∧ t.len = 0 ∧ mayTransfer i = true) ∧
    (∀ x, min s.len.toNat 65536 ≤ x → t.outBuf.read x = s.outBuf.read x)

/-- R93, R118, R121: the surface changes only by RESET, by RENDER, and by a transfer that renders; BOOT and a transfer without
rendering leave it. -/
def Obligations.SurfaceWrittenOnlyByRendering : Prop :=
  ∀ (i : Instr) (s t : State), exec i s = .next t → t.fb ≠ s.fb →
    i = .reset ∨ (∃ n, i = .render n) ∨ i = .runTransfer true ∨ i = .dispatchSwitch

/-- R44, R120: the bytes of LocalImageBuffer that an event does not reach are never observable: two states that differ only
there step alike, to states that differ in nothing but LocalImageBuffer. -/
def Obligations.StaleLocalBytesAreNeverSeen : Prop :=
  ∀ (i : Instr) (m : Memory) (s t : State), s.localBuf.wf → m.wf →
    (∀ x, x < localReach i → m.read x = s.localBuf.read x) → exec i s = .next t →
    ∃ t', exec i { s with localBuf := m } = .next t' ∧ t' = { t with localBuf := t'.localBuf }

/-- R163, D36: a settled block waits: none of its own events steps; in states of the invariant with no fault and no refusal
recorded, only a settled block waits. A run whose trace leaves a settled state ends there and nowhere else; where a run ends,
the state is in IDLE with no fault, no refusal and nothing pending, and what is observed is that state's. (Which events are the
block's own is log 25.) -/
def Obligations.SettledBlockWaits : Prop :=
  (∀ s : State, s.settled → ∀ i, ownEvent i = true → ∃ e, exec i s = .fault (.blockNotEnabled e)) ∧
  (∀ s : State, s.Inv → s.fault = none → s.refused = false → (∀ i t, ownEvent i = true → exec i s ≠ .next t) → s.settled) ∧
  (∀ s u t : State, runTrace s = some u → u.settled → (EndsAt s t ↔ t = u)) ∧
  ∀ (s : State) (o : Observation), RunObserved s o →
    ∃ t : State, t.phase = .idle ∧ t.fault = none ∧ t.refused = false ∧ irqTimer t = false ∧ irqSwitch t = false ∧
      o.outBuf = t.outBuf ∧ o.fb = t.fb ∧ o.disp = t.disp ∧ o.trace = t.trace ∧ o.timeoutCount = t.timeoutCount ∧
      o.counter = t.counter ∧ EndsAt s t

/-- Every step keeps the invariant: the parameters in range, the switch vectors SW_WIDTH bits wide, the regions canonical and
inside their sizes, the period register at TIMER_PERIOD, the interrupt enable as the phase says, a fault recorded in FAULT. -/
def Obligations.StepKeepsTheInvariant : Prop :=
  ∀ s t : State, s.Inv → step s = .next t → t.Inv

/-! ### Encoding, decoding and the step -/

/-- R73, R74, R81: decoding the encoding of a well-formed instruction gives it back, every operand at every value. -/
def Obligations.DecodeOfEncodeIsIdentity : Prop :=
  ∀ (swWidth : Nat) (i : Instr), i.wf swWidth = true → decode swWidth (encode i) = .ok i

/-- R73, R74, R81: what decodes is the encoding of a well-formed instruction: no bit of an accepted word is ignored. -/
def Obligations.EncodeOfDecodeIsIdentity : Prop :=
  ∀ (swWidth : Nat) (q : Stimulus) (i : Instr), decode swWidth q = .ok i → i.wf swWidth = true ∧ encode i = q

/-- R79: a word is accepted exactly when its code is in the table, every bit of w[55:0] that is no field's is 0, and the field
constraint holds; every other word is refused. -/
def Obligations.WordRefusedExactlyByR79 : Prop :=
  ∀ (swWidth : Nat) (w : EventWord),
    (∃ i, decodeEvent swWidth w = .ok i) ↔
      (w.toNat / 2 ^ 56 ∈ eventCodes ∧ (∀ j, j < 56 → fieldBit (w.toNat / 2 ^ 56) j = false → w.getLsbD j = false) ∧
        constraintHolds swWidth w)

/-- R82 and its examples: words written out from the encoding tables decode to the events they stand for. -/
def Obligations.WrittenWordsDecode : Prop :=
  decodeEvent 4 0x0300000000000001 = .ok .dispatchSwitch ∧ decodeEvent 4 0x20000003000000EF = .ok (.pWriteIn 3 0xEF) ∧
  decodeEvent 4 0x0600000007010000 = .ok (.apply 65536 7) ∧ decodeEvent 4 0x0500000000000001 = .ok (.runTransfer true) ∧
  decodeEvent 4 0x2300FFFF00000000 = .ok (.pReadOut 65535) ∧ decodeEvent 4 0x100000000000000F = .ok (.swSet 15) ∧
  decode 4 (.lane 2 0x10) = .ok (.tBrighten 0x10)

/-- R81, R18: when the next event of the trace decodes, step takes it off and is exec of it. With no event left, step waits and
changes nothing (the model's choice, log 1). -/
def Obligations.StepRunsTheDecodedEvent : Prop :=
  (∀ (q : Stimulus) (rest : List Stimulus) (i : Instr) (s : State), s.events = q :: rest → decode s.cfg.swWidth q = .ok i →
    step s = exec i { s with events := rest }) ∧
  (∀ s : State, s.events = [] → step s = .next s)

/-- R79, R152: a refused word sets the refusal mark and changes nothing else (but that it is taken off the trace). -/
def Obligations.RefusedWordOnlySetsTheMark : Prop :=
  ∀ (q : Stimulus) (rest : List Stimulus) (r : Reject) (s : State), s.events = q :: rest → decode s.cfg.swWidth q = .error r →
    step s = .next { s with events := rest, refused := true }
end

