-- ==== Sys2Proof/Laws/Memory.lean ====
section
/-! SUPPORT. The laws of the regions: what a read gives after a write, what the readers give, that every operation keeps the
canonical form, and that canonical regions with equal reads are equal. -/

namespace Sys2Proof.Machine

/-! ### One byte -/

@[simp] theorem Memory.read_nil (x : Nat) : Memory.read [] x = none := rfl

theorem Memory.read_cons (c : Host.Cell) (m : Memory) (x : Nat) :
    Memory.read (c :: m) x = if c.1 = x then some c.2 else Memory.read m x := rfl

/-- A region whose cells all lie above `x` holds nothing at `x`. -/
theorem Memory.read_eq_none_of_lt {m : Memory} {x : Nat} (h : ∀ c ∈ m, x < c.1) : m.read x = none := by
  induction m with
  | nil => rfl
  | cons c m ih =>
    have hc := h c (by simp)
    rw [Memory.read_cons, if_neg (by omega)]
    exact ih (fun d hd => h d (List.mem_cons_of_mem _ hd))

theorem Memory.read_write (m : Memory) (x : Nat) (v : Byte) (y : Nat) :
    (m.write x v).read y = if x = y then some v else m.read y := by
  induction m with
  | nil => simp [Memory.write, Memory.read]
  | cons c m ih =>
    unfold Memory.write
    split
    · simp [Memory.read]
    · split
      · next h => subst h; by_cases h2 : c.1 = y <;> simp [Memory.read, h2]
      · next h1 h2 =>
        rw [Memory.read_cons, Memory.read_cons, ih]
        by_cases h3 : c.1 = y
        · have : ¬ x = y := by omega
          simp [h3, this]
        · simp [h3]

@[simp] theorem Memory.read_write_same (m : Memory) (x : Nat) (v : Byte) : (m.write x v).read x = some v := by
  simp [Memory.read_write]

theorem Memory.read_write_other (m : Memory) {x y : Nat} (v : Byte) (h : x ≠ y) : (m.write x v).read y = m.read y := by
  simp [Memory.read_write, h]

/-- Every cell of a region after a write is the written one or an old one. -/
theorem Memory.mem_write {m : Memory} {x : Nat} {v : Byte} {c : Host.Cell} (h : c ∈ m.write x v) : c.1 = x ∨ c ∈ m := by
  induction m with
  | nil => simp [Memory.write] at h; simp [h]
  | cons d m ih =>
    unfold Memory.write at h
    split at h
    · rcases List.mem_cons.1 h with rfl | h
      · simp
      · exact .inr h
    · split at h
      · rcases List.mem_cons.1 h with rfl | h
        · simp
        · exact .inr (List.mem_cons_of_mem _ h)
      · rcases List.mem_cons.1 h with rfl | h
        · simp
        · rcases ih h with h | h
          · exact .inl h
          · exact .inr (List.mem_cons_of_mem _ h)

theorem Memory.write_wf {m : Memory} (hm : m.wf) (x : Nat) (v : Byte) : (m.write x v).wf := by
  induction m with
  | nil => simp [Memory.write]
  | cons c m ih =>
    have hc := List.pairwise_cons.1 hm
    unfold Memory.write
    split
    · next h =>
      refine List.pairwise_cons.2 ⟨fun d hd => ?_, hm⟩
      rcases List.mem_cons.1 hd with rfl | hd
      · exact h
      · exact Nat.lt_trans h (hc.1 d hd)
    · split
      · next h => subst h; exact List.pairwise_cons.2 hc
      · refine List.pairwise_cons.2 ⟨fun d hd => ?_, ih hc.2⟩
        rcases Memory.mem_write hd with h | h
        · omega
        · exact hc.1 d h

theorem Memory.write_within {m : Memory} {size x : Nat} (hm : m.within size) (hx : x < size) (v : Byte) :
    (m.write x v).within size := by
  intro c hc
  rcases Memory.mem_write hc with h | h
  · omega
  · exact hm c h

/-! ### Consecutive cells -/

theorem mem_cellsFrom {bs : List Byte} {x : Nat} {c : Host.Cell} (h : c ∈ cellsFrom x bs) :
    x ≤ c.1 ∧ c.1 < x + bs.length := by
  induction bs generalizing x with
  | nil => simp [cellsFrom] at h
  | cons b bs ih =>
    rcases List.mem_cons.1 h with rfl | h
    · simp
    · have := ih h
      simp only [List.length_cons]
      omega

theorem cellsFrom_wf (bs : List Byte) (x : Nat) : Memory.wf (cellsFrom x bs) := by
  induction bs generalizing x with
  | nil => exact List.Pairwise.nil
  | cons b bs ih =>
    refine List.pairwise_cons.2 ⟨fun d hd => ?_, ih (x + 1)⟩
    have := mem_cellsFrom hd
    simp only
    omega

/-- What a region that begins with consecutive cells holds. -/
theorem read_cellsFrom_append (bs : List Byte) (x y : Nat) (m : Memory) (hy : x ≤ y) :
    Memory.read (cellsFrom x bs ++ m) y = if h : y - x < bs.length then some bs[y - x] else m.read y := by
  induction bs generalizing x with
  | nil => simp [cellsFrom]
  | cons b bs ih =>
    rw [cellsFrom, List.cons_append, Memory.read_cons]
    by_cases hxy : x = y
    · subst hxy; simp
    · simp only [hxy, if_false]
      rw [ih (x + 1) (by omega)]
      have e : y - x = (y - (x + 1)) + 1 := by omega
      simp only [e, List.length_cons, Nat.add_lt_add_iff_right, List.getElem_cons_succ]

/-! ### A prefix written -/

theorem Memory.read_filter_ge (m : Memory) (n x : Nat) :
    Memory.read (m.filter (fun c => decide (n ≤ c.1))) x = if n ≤ x then m.read x else none := by
  induction m with
  | nil => simp [Memory.read]
  | cons c m ih =>
    by_cases hc : n ≤ c.1
    · rw [List.filter_cons_of_pos (by simpa using hc), Memory.read_cons, Memory.read_cons, ih]
      by_cases hx : c.1 = x
      · have : n ≤ x := by omega
        simp [hx, this]
      · simp [hx]
    · rw [List.filter_cons_of_neg (by simpa using hc), ih, Memory.read_cons]
      by_cases hx : n ≤ x
      · have : ¬ c.1 = x := by omega
        simp [hx, this]
      · simp [hx]

/-- A read after a prefix is written: the written byte below its length, the old one elsewhere. -/
theorem Memory.read_writePrefix (m : Memory) (bs : List Byte) (x : Nat) :
    (m.writePrefix bs).read x = if h : x < bs.length then some bs[x] else m.read x := by
  rw [Memory.writePrefix, read_cellsFrom_append bs 0 x _ (Nat.zero_le x), Memory.read_filter_ge]
  by_cases h : x < bs.length
  · simp [h]
  · simp [h, Nat.le_of_not_lt h]

theorem Memory.writePrefix_wf {m : Memory} (hm : m.wf) (bs : List Byte) : (m.writePrefix bs).wf := by
  refine List.pairwise_append.2 ⟨cellsFrom_wf bs 0, hm.filter _, fun c hc d hd => ?_⟩
  have h1 := mem_cellsFrom hc
  have h2 := (List.mem_filter.1 hd).2
  simp only [decide_eq_true_eq] at h2
  omega

theorem Memory.writePrefix_within {m : Memory} {size : Nat} (hm : m.within size) {bs : List Byte} (hbs : bs.length ≤ size) :
    (m.writePrefix bs).within size := by
  intro c hc
  rcases List.mem_append.1 hc with h | h
  · have := mem_cellsFrom h
    omega
  · exact hm c (List.mem_filter.1 h).1

/-- Of two prefixes of one length written in turn, the second stands. -/
theorem Memory.writePrefix_writePrefix (m : Memory) {as bs : List Byte} (h : as.length = bs.length) :
    (m.writePrefix as).writePrefix bs = m.writePrefix bs := by
  have hcells : (cellsFrom 0 as).filter (fun c => decide (bs.length ≤ c.1)) = [] := by
    rw [List.filter_eq_nil_iff]
    intro c hc
    have := mem_cellsFrom hc
    simp only [decide_eq_true_eq]
    omega
  simp [Memory.writePrefix, List.filter_append, hcells, h, List.filter_filter]

/-! ### A prefix read -/

theorem takeCells_cellsFrom_append (bs : List Byte) (x : Nat) (m : Memory) :
    takeCells x bs.length (cellsFrom x bs ++ m) = .ok bs := by
  induction bs generalizing x with
  | nil => simp [takeCells]
  | cons b bs ih => simp [takeCells, cellsFrom, ih (x + 1)]

/-- A prefix just written reads back whole. -/
theorem Memory.readPrefix_writePrefix (m : Memory) (bs : List Byte) : (m.writePrefix bs).readPrefix bs.length = .ok bs :=
  takeCells_cellsFrom_append bs 0 _

theorem takeCells_ok {k x : Nat} {m : Memory} {bs : List Byte} (h : takeCells x k m = .ok bs) :
    bs.length = k ∧ ∀ i (hi : i < bs.length), m.read (x + i) = some bs[i] := by
  induction k generalizing x m bs with
  | zero => simp only [takeCells, Except.ok.injEq] at h; subst h; simp
  | succ k ih =>
    cases m with
    | nil => simp [takeCells] at h
    | cons c m =>
      by_cases hc : c.1 = x
      · cases hr : takeCells (x + 1) k m with
        | error i => simp [takeCells, hc, hr] at h
        | ok cs =>
          simp only [takeCells, hc, hr, if_true, Except.ok.injEq] at h
          subst h
          obtain ⟨hl, hi⟩ := ih hr
          refine ⟨by simp [hl], fun i hi2 => ?_⟩
          cases i with
          | zero => simp [Memory.read_cons, hc]
          | succ i =>
            have hi3 : i < cs.length := by simpa using hi2
            have h3 := hi i hi3
            rw [Memory.read_cons, if_neg (by omega), List.getElem_cons_succ, ← h3]
            congr 1
            omega
      · simp [takeCells, hc] at h

theorem takeCells_error {k x i : Nat} {m : Memory} (hm : m.wf) (hlow : ∀ c ∈ m, x ≤ c.1) (h : takeCells x k m = .error i) :
    x ≤ i ∧ i < x + k ∧ m.read i = none ∧ ∀ j, x ≤ j → j < i → ∃ b, m.read j = some b := by
  induction k generalizing x m with
  | zero => simp [takeCells] at h
  | succ k ih =>
    cases m with
    | nil =>
      simp only [takeCells, Except.error.injEq] at h
      subst h
      exact ⟨Nat.le_refl _, by omega, rfl, fun j h1 h2 => by omega⟩
    | cons c m =>
      have hw := List.pairwise_cons.1 hm
      by_cases hc : c.1 = x
      · cases hr : takeCells (x + 1) k m with
        | ok cs => simp [takeCells, hc, hr] at h
        | error i2 =>
          simp only [takeCells, hc, hr, if_true, Except.error.injEq] at h
          subst h
          obtain ⟨h1, h2, h3, h4⟩ := ih hw.2 (fun d hd => by have := hw.1 d hd; omega) hr
          refine ⟨by omega, by omega, ?_, fun j hj1 hj2 => ?_⟩
          · rw [Memory.read_cons, if_neg (by omega)]; exact h3
          · by_cases hj : j = x
            · exact ⟨c.2, by rw [Memory.read_cons, if_pos (by omega)]⟩
            · obtain ⟨b, hb⟩ := h4 j (by omega) hj2
              exact ⟨b, by rw [Memory.read_cons, if_neg (by omega)]; exact hb⟩
      · simp only [takeCells, hc, if_false, Except.error.injEq] at h
        subst h
        have hx : x < c.1 := by have := hlow c (by simp); omega
        refine ⟨Nat.le_refl _, by omega, ?_, fun j h1 h2 => by omega⟩
        refine Memory.read_eq_none_of_lt (fun d hd => ?_)
        rcases List.mem_cons.1 hd with rfl | hd
        · exact hx
        · exact Nat.lt_trans hx (hw.1 d hd)

/-- If the prefix reads, it has the length asked for and holds the region's bytes. -/
theorem Memory.readPrefix_ok {m : Memory} {n : Nat} {bs : List Byte} (h : m.readPrefix n = .ok bs) :
    bs.length = n ∧ ∀ i (hi : i < bs.length), m.read i = some bs[i] := by
  have := takeCells_ok h
  simpa using this

/-- If the prefix does not read, the offset named is the least below `n` that holds undef. -/
theorem Memory.readPrefix_error {m : Memory} {n i : Nat} (hm : m.wf) (h : m.readPrefix n = .error i) :
    i < n ∧ m.read i = none ∧ ∀ j, j < i → ∃ b, m.read j = some b := by
  obtain ⟨_, h2, h3, h4⟩ := takeCells_error hm (fun c _ => Nat.zero_le c.1) h
  exact ⟨by omega, h3, fun j hj => h4 j (Nat.zero_le j) hj⟩

/-- A prefix with no undef byte reads. -/
theorem Memory.readPrefix_of_defined {m : Memory} {n : Nat} (hm : m.wf) (h : ∀ i, i < n → m.read i ≠ none) :
    ∃ bs, m.readPrefix n = .ok bs := by
  cases hr : m.readPrefix n with
  | ok bs => exact ⟨bs, rfl⟩
  | error i =>
    obtain ⟨h1, h2, _⟩ := Memory.readPrefix_error hm hr
    exact absurd h2 (h i h1)

/-- A prefix whose least undef offset is `i` does not read, and names `i`. -/
theorem Memory.readPrefix_of_undef {m : Memory} {n i : Nat} (hm : m.wf) (hi : i < n) (hu : m.read i = none)
    (hd : ∀ j, j < i → m.read j ≠ none) : m.readPrefix n = .error i := by
  cases hr : m.readPrefix n with
  | ok bs =>
    obtain ⟨h1, h2⟩ := Memory.readPrefix_ok hr
    have := h2 i (by omega)
    simp [hu] at this
  | error i2 =>
    obtain ⟨_, h2, h3⟩ := Memory.readPrefix_error hm hr
    rcases Nat.lt_trichotomy i i2 with h | h | h
    · obtain ⟨b, hb⟩ := h3 i h
      simp [hu] at hb
    · rw [h]
    · exact absurd h2 (hd i2 h)

/-- Every region of the machine right after reset is in the canonical form. -/
theorem reset_regions_wf : State.reset.inBuf.wf ∧ State.reset.outBuf.wf ∧ State.reset.localBuf.wf ∧ State.reset.fb.wf :=
  ⟨List.Pairwise.nil, List.Pairwise.nil, List.Pairwise.nil, List.Pairwise.nil⟩

/-! ### Equality of canonical regions -/

/-- Canonical regions that read alike are equal data. -/
theorem Memory.ext_of_wf {m m' : Memory} (hm : m.wf) (hm' : m'.wf) (h : ∀ x, m.read x = m'.read x) : m = m' := by
  induction m generalizing m' with
  | nil =>
    cases m' with
    | nil => rfl
    | cons d m' => have := h d.1; simp [Memory.read_cons] at this
  | cons c m ih =>
    cases m' with
    | nil => have := h c.1; simp [Memory.read_cons] at this
    | cons d m' =>
      have hc := List.pairwise_cons.1 hm
      have hd := List.pairwise_cons.1 hm'
      have key : c.1 = d.1 := by
        rcases Nat.lt_trichotomy c.1 d.1 with hlt | he | hlt
        · have h1 := h c.1
          rw [Memory.read_cons, if_pos rfl, Memory.read_cons, if_neg (by omega),
            Memory.read_eq_none_of_lt (fun e he => Nat.lt_trans hlt (hd.1 e he))] at h1
          simp at h1
        · exact he
        · have h1 := h d.1
          rw [Memory.read_cons, if_neg (by omega), Memory.read_cons, if_pos rfl,
            Memory.read_eq_none_of_lt (fun e he => Nat.lt_trans hlt (hc.1 e he))] at h1
          simp at h1
      have val : c.2 = d.2 := by
        have h1 := h c.1
        rw [Memory.read_cons, if_pos rfl, Memory.read_cons, if_pos key.symm] at h1
        exact Option.some.inj h1
      have tail : m = m' := by
        refine ih hc.2 hd.2 (fun x => ?_)
        have h1 := h x
        rw [Memory.read_cons, Memory.read_cons] at h1
        by_cases hx : c.1 = x
        · rw [Memory.read_eq_none_of_lt (fun e he => hx ▸ hc.1 e he),
            Memory.read_eq_none_of_lt (fun e he => hx ▸ key ▸ hd.1 e he)]
        · rw [if_neg hx, if_neg (by omega)] at h1
          exact h1
      rw [tail, show c = d from Prod.ext key val]

end Sys2Proof.Machine
end

