-- ==== Sys2Proof/Laws/State.lean ====
section
/-! SUPPORT. What each named operation leaves in each field of State: one lemma per field, true by rfl, in the simp set, so that
no proof unfolds a record update. -/

namespace Sys2Proof.Machine

variable (s : State)

@[simp] theorem takeSnapshot_cfg : (takeSnapshot s).cfg = s.cfg := rfl
@[simp] theorem takeSnapshot_phase : (takeSnapshot s).phase = s.phase := rfl
@[simp] theorem takeSnapshot_gie : (takeSnapshot s).gie = s.gie := rfl
@[simp] theorem takeSnapshot_snap : (takeSnapshot s).snap = s.sw := rfl
@[simp] theorem takeSnapshot_prevConfirm : (takeSnapshot s).prevConfirm = s.prevConfirm := rfl
@[simp] theorem takeSnapshot_timeoutCount : (takeSnapshot s).timeoutCount = s.timeoutCount := rfl
@[simp] theorem takeSnapshot_counter : (takeSnapshot s).counter = s.counter := rfl
@[simp] theorem takeSnapshot_edgecap : (takeSnapshot s).edgecap = s.edgecap := rfl
@[simp] theorem takeSnapshot_timerTo : (takeSnapshot s).timerTo = s.timerTo := rfl
@[simp] theorem takeSnapshot_timerPeriod : (takeSnapshot s).timerPeriod = s.timerPeriod := rfl
@[simp] theorem takeSnapshot_sw : (takeSnapshot s).sw = s.sw := rfl
@[simp] theorem takeSnapshot_len : (takeSnapshot s).len = s.len := rfl
@[simp] theorem takeSnapshot_inBuf : (takeSnapshot s).inBuf = s.inBuf := rfl
@[simp] theorem takeSnapshot_outBuf : (takeSnapshot s).outBuf = s.outBuf := rfl
@[simp] theorem takeSnapshot_localBuf : (takeSnapshot s).localBuf = s.localBuf := rfl
@[simp] theorem takeSnapshot_fb : (takeSnapshot s).fb = s.fb := rfl
@[simp] theorem takeSnapshot_disp : (takeSnapshot s).disp = s.disp := rfl
@[simp] theorem takeSnapshot_fault : (takeSnapshot s).fault = s.fault := rfl
@[simp] theorem takeSnapshot_refused : (takeSnapshot s).refused = s.refused := rfl
@[simp] theorem takeSnapshot_trace : (takeSnapshot s).trace = s.trace := rfl
@[simp] theorem takeSnapshot_events : (takeSnapshot s).events = s.events := rfl
@[simp] theorem takeSnapshot_returned : (takeSnapshot s).returned = s.returned := rfl
@[simp] theorem takeSnapshot_draws : (takeSnapshot s).draws = s.draws := rfl

@[simp] theorem returnToIdle_cfg : (returnToIdle s).cfg = s.cfg := rfl
@[simp] theorem returnToIdle_phase : (returnToIdle s).phase = .idle := rfl
@[simp] theorem returnToIdle_gie : (returnToIdle s).gie = s.gie := rfl
@[simp] theorem returnToIdle_snap : (returnToIdle s).snap = s.snap := rfl
@[simp] theorem returnToIdle_prevConfirm : (returnToIdle s).prevConfirm = s.prevConfirm := rfl
@[simp] theorem returnToIdle_timeoutCount : (returnToIdle s).timeoutCount = s.timeoutCount := rfl
@[simp] theorem returnToIdle_counter : (returnToIdle s).counter = s.counter := rfl
@[simp] theorem returnToIdle_edgecap : (returnToIdle s).edgecap = s.edgecap := rfl
@[simp] theorem returnToIdle_timerTo : (returnToIdle s).timerTo = s.timerTo := rfl
@[simp] theorem returnToIdle_timerPeriod : (returnToIdle s).timerPeriod = s.timerPeriod := rfl
@[simp] theorem returnToIdle_sw : (returnToIdle s).sw = s.sw := rfl
@[simp] theorem returnToIdle_len : (returnToIdle s).len = s.len := rfl
@[simp] theorem returnToIdle_inBuf : (returnToIdle s).inBuf = s.inBuf := rfl
@[simp] theorem returnToIdle_outBuf : (returnToIdle s).outBuf = s.outBuf := rfl
@[simp] theorem returnToIdle_localBuf : (returnToIdle s).localBuf = s.localBuf := rfl
@[simp] theorem returnToIdle_fb : (returnToIdle s).fb = s.fb := rfl
@[simp] theorem returnToIdle_disp : (returnToIdle s).disp = s.disp := rfl
@[simp] theorem returnToIdle_fault : (returnToIdle s).fault = s.fault := rfl
@[simp] theorem returnToIdle_refused : (returnToIdle s).refused = s.refused := rfl
@[simp] theorem returnToIdle_trace : (returnToIdle s).trace = s.trace := rfl
@[simp] theorem returnToIdle_events : (returnToIdle s).events = s.events := rfl
@[simp] theorem returnToIdle_returned : (returnToIdle s).returned = s.returned := rfl
@[simp] theorem returnToIdle_draws : (returnToIdle s).draws = s.draws := rfl

@[simp] theorem raiseFault_cfg (f : FaultRecord) : (raiseFault f s).cfg = s.cfg := rfl
@[simp] theorem raiseFault_phase (f : FaultRecord) : (raiseFault f s).phase = .fault := rfl
@[simp] theorem raiseFault_gie (f : FaultRecord) : (raiseFault f s).gie = s.gie := rfl
@[simp] theorem raiseFault_snap (f : FaultRecord) : (raiseFault f s).snap = s.snap := rfl
@[simp] theorem raiseFault_prevConfirm (f : FaultRecord) : (raiseFault f s).prevConfirm = s.prevConfirm := rfl
@[simp] theorem raiseFault_timeoutCount (f : FaultRecord) : (raiseFault f s).timeoutCount = s.timeoutCount := rfl
@[simp] theorem raiseFault_counter (f : FaultRecord) : (raiseFault f s).counter = s.counter := rfl
@[simp] theorem raiseFault_edgecap (f : FaultRecord) : (raiseFault f s).edgecap = s.edgecap := rfl
@[simp] theorem raiseFault_timerTo (f : FaultRecord) : (raiseFault f s).timerTo = s.timerTo := rfl
@[simp] theorem raiseFault_timerPeriod (f : FaultRecord) : (raiseFault f s).timerPeriod = s.timerPeriod := rfl
@[simp] theorem raiseFault_sw (f : FaultRecord) : (raiseFault f s).sw = s.sw := rfl
@[simp] theorem raiseFault_len (f : FaultRecord) : (raiseFault f s).len = s.len := rfl
@[simp] theorem raiseFault_inBuf (f : FaultRecord) : (raiseFault f s).inBuf = s.inBuf := rfl
@[simp] theorem raiseFault_outBuf (f : FaultRecord) : (raiseFault f s).outBuf = s.outBuf := rfl
@[simp] theorem raiseFault_localBuf (f : FaultRecord) : (raiseFault f s).localBuf = s.localBuf := rfl
@[simp] theorem raiseFault_fb (f : FaultRecord) : (raiseFault f s).fb = s.fb := rfl
@[simp] theorem raiseFault_disp (f : FaultRecord) : (raiseFault f s).disp = s.disp := rfl
@[simp] theorem raiseFault_fault (f : FaultRecord) : (raiseFault f s).fault = recordFault f s.fault := rfl
@[simp] theorem raiseFault_refused (f : FaultRecord) : (raiseFault f s).refused = s.refused := rfl
@[simp] theorem raiseFault_trace (f : FaultRecord) : (raiseFault f s).trace = s.trace := rfl
@[simp] theorem raiseFault_events (f : FaultRecord) : (raiseFault f s).events = s.events := rfl
@[simp] theorem raiseFault_returned (f : FaultRecord) : (raiseFault f s).returned = s.returned := rfl
@[simp] theorem raiseFault_draws (f : FaultRecord) : (raiseFault f s).draws = s.draws := rfl

@[simp] theorem refuseWord_cfg : (refuseWord s).cfg = s.cfg := rfl
@[simp] theorem refuseWord_phase : (refuseWord s).phase = s.phase := rfl
@[simp] theorem refuseWord_gie : (refuseWord s).gie = s.gie := rfl
@[simp] theorem refuseWord_snap : (refuseWord s).snap = s.snap := rfl
@[simp] theorem refuseWord_prevConfirm : (refuseWord s).prevConfirm = s.prevConfirm := rfl
@[simp] theorem refuseWord_timeoutCount : (refuseWord s).timeoutCount = s.timeoutCount := rfl
@[simp] theorem refuseWord_counter : (refuseWord s).counter = s.counter := rfl
@[simp] theorem refuseWord_edgecap : (refuseWord s).edgecap = s.edgecap := rfl
@[simp] theorem refuseWord_timerTo : (refuseWord s).timerTo = s.timerTo := rfl
@[simp] theorem refuseWord_timerPeriod : (refuseWord s).timerPeriod = s.timerPeriod := rfl
@[simp] theorem refuseWord_sw : (refuseWord s).sw = s.sw := rfl
@[simp] theorem refuseWord_len : (refuseWord s).len = s.len := rfl
@[simp] theorem refuseWord_inBuf : (refuseWord s).inBuf = s.inBuf := rfl
@[simp] theorem refuseWord_outBuf : (refuseWord s).outBuf = s.outBuf := rfl
@[simp] theorem refuseWord_localBuf : (refuseWord s).localBuf = s.localBuf := rfl
@[simp] theorem refuseWord_fb : (refuseWord s).fb = s.fb := rfl
@[simp] theorem refuseWord_disp : (refuseWord s).disp = s.disp := rfl
@[simp] theorem refuseWord_fault : (refuseWord s).fault = s.fault := rfl
@[simp] theorem refuseWord_refused : (refuseWord s).refused = true := rfl
@[simp] theorem refuseWord_trace : (refuseWord s).trace = s.trace := rfl
@[simp] theorem refuseWord_events : (refuseWord s).events = s.events := rfl
@[simp] theorem refuseWord_returned : (refuseWord s).returned = s.returned := rfl
@[simp] theorem refuseWord_draws : (refuseWord s).draws = s.draws := rfl

@[simp] theorem emit_cfg (t : Token) : (emit t s).cfg = s.cfg := rfl
@[simp] theorem emit_phase (t : Token) : (emit t s).phase = s.phase := rfl
@[simp] theorem emit_gie (t : Token) : (emit t s).gie = s.gie := rfl
@[simp] theorem emit_snap (t : Token) : (emit t s).snap = s.snap := rfl
@[simp] theorem emit_prevConfirm (t : Token) : (emit t s).prevConfirm = s.prevConfirm := rfl
@[simp] theorem emit_timeoutCount (t : Token) : (emit t s).timeoutCount = s.timeoutCount := rfl
@[simp] theorem emit_counter (t : Token) : (emit t s).counter = s.counter := rfl
@[simp] theorem emit_edgecap (t : Token) : (emit t s).edgecap = s.edgecap := rfl
@[simp] theorem emit_timerTo (t : Token) : (emit t s).timerTo = s.timerTo := rfl
@[simp] theorem emit_timerPeriod (t : Token) : (emit t s).timerPeriod = s.timerPeriod := rfl
@[simp] theorem emit_sw (t : Token) : (emit t s).sw = s.sw := rfl
@[simp] theorem emit_len (t : Token) : (emit t s).len = s.len := rfl
@[simp] theorem emit_inBuf (t : Token) : (emit t s).inBuf = s.inBuf := rfl
@[simp] theorem emit_outBuf (t : Token) : (emit t s).outBuf = s.outBuf := rfl
@[simp] theorem emit_localBuf (t : Token) : (emit t s).localBuf = s.localBuf := rfl
@[simp] theorem emit_fb (t : Token) : (emit t s).fb = s.fb := rfl
@[simp] theorem emit_disp (t : Token) : (emit t s).disp = s.disp := rfl
@[simp] theorem emit_fault (t : Token) : (emit t s).fault = s.fault := rfl
@[simp] theorem emit_refused (t : Token) : (emit t s).refused = s.refused := rfl
@[simp] theorem emit_trace (t : Token) : (emit t s).trace = s.trace ++ [t] := rfl
@[simp] theorem emit_events (t : Token) : (emit t s).events = s.events := rfl
@[simp] theorem emit_returned (t : Token) : (emit t s).returned = s.returned := rfl
@[simp] theorem emit_draws (t : Token) : (emit t s).draws = s.draws := rfl

@[simp] theorem answer_cfg (r : Returned) : (answer r s).cfg = s.cfg := rfl
@[simp] theorem answer_phase (r : Returned) : (answer r s).phase = s.phase := rfl
@[simp] theorem answer_gie (r : Returned) : (answer r s).gie = s.gie := rfl
@[simp] theorem answer_snap (r : Returned) : (answer r s).snap = s.snap := rfl
@[simp] theorem answer_prevConfirm (r : Returned) : (answer r s).prevConfirm = s.prevConfirm := rfl
@[simp] theorem answer_timeoutCount (r : Returned) : (answer r s).timeoutCount = s.timeoutCount := rfl
@[simp] theorem answer_counter (r : Returned) : (answer r s).counter = s.counter := rfl
@[simp] theorem answer_edgecap (r : Returned) : (answer r s).edgecap = s.edgecap := rfl
@[simp] theorem answer_timerTo (r : Returned) : (answer r s).timerTo = s.timerTo := rfl
@[simp] theorem answer_timerPeriod (r : Returned) : (answer r s).timerPeriod = s.timerPeriod := rfl
@[simp] theorem answer_sw (r : Returned) : (answer r s).sw = s.sw := rfl
@[simp] theorem answer_len (r : Returned) : (answer r s).len = s.len := rfl
@[simp] theorem answer_inBuf (r : Returned) : (answer r s).inBuf = s.inBuf := rfl
@[simp] theorem answer_outBuf (r : Returned) : (answer r s).outBuf = s.outBuf := rfl
@[simp] theorem answer_localBuf (r : Returned) : (answer r s).localBuf = s.localBuf := rfl
@[simp] theorem answer_fb (r : Returned) : (answer r s).fb = s.fb := rfl
@[simp] theorem answer_disp (r : Returned) : (answer r s).disp = s.disp := rfl
@[simp] theorem answer_fault (r : Returned) : (answer r s).fault = s.fault := rfl
@[simp] theorem answer_refused (r : Returned) : (answer r s).refused = s.refused := rfl
@[simp] theorem answer_trace (r : Returned) : (answer r s).trace = s.trace := rfl
@[simp] theorem answer_events (r : Returned) : (answer r s).events = s.events := rfl
@[simp] theorem answer_returned (r : Returned) : (answer r s).returned = r := rfl
@[simp] theorem answer_draws (r : Returned) : (answer r s).draws = s.draws := rfl

@[simp] theorem writeEdgeCapture_cfg (w : Word32) : (writeEdgeCapture w s).cfg = s.cfg := rfl
@[simp] theorem writeEdgeCapture_phase (w : Word32) : (writeEdgeCapture w s).phase = s.phase := rfl
@[simp] theorem writeEdgeCapture_gie (w : Word32) : (writeEdgeCapture w s).gie = s.gie := rfl
@[simp] theorem writeEdgeCapture_snap (w : Word32) : (writeEdgeCapture w s).snap = s.snap := rfl
@[simp] theorem writeEdgeCapture_prevConfirm (w : Word32) : (writeEdgeCapture w s).prevConfirm = s.prevConfirm := rfl
@[simp] theorem writeEdgeCapture_timeoutCount (w : Word32) : (writeEdgeCapture w s).timeoutCount = s.timeoutCount := rfl
@[simp] theorem writeEdgeCapture_counter (w : Word32) : (writeEdgeCapture w s).counter = s.counter := rfl
@[simp] theorem writeEdgeCapture_edgecap (w : Word32) : (writeEdgeCapture w s).edgecap = s.edgecap &&& ~~~w := rfl
@[simp] theorem writeEdgeCapture_timerTo (w : Word32) : (writeEdgeCapture w s).timerTo = s.timerTo := rfl
@[simp] theorem writeEdgeCapture_timerPeriod (w : Word32) : (writeEdgeCapture w s).timerPeriod = s.timerPeriod := rfl
@[simp] theorem writeEdgeCapture_sw (w : Word32) : (writeEdgeCapture w s).sw = s.sw := rfl
@[simp] theorem writeEdgeCapture_len (w : Word32) : (writeEdgeCapture w s).len = s.len := rfl
@[simp] theorem writeEdgeCapture_inBuf (w : Word32) : (writeEdgeCapture w s).inBuf = s.inBuf := rfl
@[simp] theorem writeEdgeCapture_outBuf (w : Word32) : (writeEdgeCapture w s).outBuf = s.outBuf := rfl
@[simp] theorem writeEdgeCapture_localBuf (w : Word32) : (writeEdgeCapture w s).localBuf = s.localBuf := rfl
@[simp] theorem writeEdgeCapture_fb (w : Word32) : (writeEdgeCapture w s).fb = s.fb := rfl
@[simp] theorem writeEdgeCapture_disp (w : Word32) : (writeEdgeCapture w s).disp = s.disp := rfl
@[simp] theorem writeEdgeCapture_fault (w : Word32) : (writeEdgeCapture w s).fault = s.fault := rfl
@[simp] theorem writeEdgeCapture_refused (w : Word32) : (writeEdgeCapture w s).refused = s.refused := rfl
@[simp] theorem writeEdgeCapture_trace (w : Word32) : (writeEdgeCapture w s).trace = s.trace := rfl
@[simp] theorem writeEdgeCapture_events (w : Word32) : (writeEdgeCapture w s).events = s.events := rfl
@[simp] theorem writeEdgeCapture_returned (w : Word32) : (writeEdgeCapture w s).returned = s.returned := rfl
@[simp] theorem writeEdgeCapture_draws (w : Word32) : (writeEdgeCapture w s).draws = s.draws := rfl

@[simp] theorem writeTimerStatus_cfg : (writeTimerStatus s).cfg = s.cfg := rfl
@[simp] theorem writeTimerStatus_phase : (writeTimerStatus s).phase = s.phase := rfl
@[simp] theorem writeTimerStatus_gie : (writeTimerStatus s).gie = s.gie := rfl
@[simp] theorem writeTimerStatus_snap : (writeTimerStatus s).snap = s.snap := rfl
@[simp] theorem writeTimerStatus_prevConfirm : (writeTimerStatus s).prevConfirm = s.prevConfirm := rfl
@[simp] theorem writeTimerStatus_timeoutCount : (writeTimerStatus s).timeoutCount = s.timeoutCount := rfl
@[simp] theorem writeTimerStatus_counter : (writeTimerStatus s).counter = s.counter := rfl
@[simp] theorem writeTimerStatus_edgecap : (writeTimerStatus s).edgecap = s.edgecap := rfl
@[simp] theorem writeTimerStatus_timerTo : (writeTimerStatus s).timerTo = false := rfl
@[simp] theorem writeTimerStatus_timerPeriod : (writeTimerStatus s).timerPeriod = s.timerPeriod := rfl
@[simp] theorem writeTimerStatus_sw : (writeTimerStatus s).sw = s.sw := rfl
@[simp] theorem writeTimerStatus_len : (writeTimerStatus s).len = s.len := rfl
@[simp] theorem writeTimerStatus_inBuf : (writeTimerStatus s).inBuf = s.inBuf := rfl
@[simp] theorem writeTimerStatus_outBuf : (writeTimerStatus s).outBuf = s.outBuf := rfl
@[simp] theorem writeTimerStatus_localBuf : (writeTimerStatus s).localBuf = s.localBuf := rfl
@[simp] theorem writeTimerStatus_fb : (writeTimerStatus s).fb = s.fb := rfl
@[simp] theorem writeTimerStatus_disp : (writeTimerStatus s).disp = s.disp := rfl
@[simp] theorem writeTimerStatus_fault : (writeTimerStatus s).fault = s.fault := rfl
@[simp] theorem writeTimerStatus_refused : (writeTimerStatus s).refused = s.refused := rfl
@[simp] theorem writeTimerStatus_trace : (writeTimerStatus s).trace = s.trace := rfl
@[simp] theorem writeTimerStatus_events : (writeTimerStatus s).events = s.events := rfl
@[simp] theorem writeTimerStatus_returned : (writeTimerStatus s).returned = s.returned := rfl
@[simp] theorem writeTimerStatus_draws : (writeTimerStatus s).draws = s.draws := rfl

@[simp] theorem writeTimerPeriod_cfg (p : Nat) : (writeTimerPeriod p s).cfg = s.cfg := rfl
@[simp] theorem writeTimerPeriod_phase (p : Nat) : (writeTimerPeriod p s).phase = s.phase := rfl
@[simp] theorem writeTimerPeriod_gie (p : Nat) : (writeTimerPeriod p s).gie = s.gie := rfl
@[simp] theorem writeTimerPeriod_snap (p : Nat) : (writeTimerPeriod p s).snap = s.snap := rfl
@[simp] theorem writeTimerPeriod_prevConfirm (p : Nat) : (writeTimerPeriod p s).prevConfirm = s.prevConfirm := rfl
@[simp] theorem writeTimerPeriod_timeoutCount (p : Nat) : (writeTimerPeriod p s).timeoutCount = s.timeoutCount := rfl
@[simp] theorem writeTimerPeriod_counter (p : Nat) : (writeTimerPeriod p s).counter = s.counter := rfl
@[simp] theorem writeTimerPeriod_edgecap (p : Nat) : (writeTimerPeriod p s).edgecap = s.edgecap := rfl
@[simp] theorem writeTimerPeriod_timerTo (p : Nat) : (writeTimerPeriod p s).timerTo = s.timerTo := rfl
@[simp] theorem writeTimerPeriod_timerPeriod (p : Nat) : (writeTimerPeriod p s).timerPeriod = p := rfl
@[simp] theorem writeTimerPeriod_sw (p : Nat) : (writeTimerPeriod p s).sw = s.sw := rfl
@[simp] theorem writeTimerPeriod_len (p : Nat) : (writeTimerPeriod p s).len = s.len := rfl
@[simp] theorem writeTimerPeriod_inBuf (p : Nat) : (writeTimerPeriod p s).inBuf = s.inBuf := rfl
@[simp] theorem writeTimerPeriod_outBuf (p : Nat) : (writeTimerPeriod p s).outBuf = s.outBuf := rfl
@[simp] theorem writeTimerPeriod_localBuf (p : Nat) : (writeTimerPeriod p s).localBuf = s.localBuf := rfl
@[simp] theorem writeTimerPeriod_fb (p : Nat) : (writeTimerPeriod p s).fb = s.fb := rfl
@[simp] theorem writeTimerPeriod_disp (p : Nat) : (writeTimerPeriod p s).disp = s.disp := rfl
@[simp] theorem writeTimerPeriod_fault (p : Nat) : (writeTimerPeriod p s).fault = s.fault := rfl
@[simp] theorem writeTimerPeriod_refused (p : Nat) : (writeTimerPeriod p s).refused = s.refused := rfl
@[simp] theorem writeTimerPeriod_trace (p : Nat) : (writeTimerPeriod p s).trace = s.trace := rfl
@[simp] theorem writeTimerPeriod_events (p : Nat) : (writeTimerPeriod p s).events = s.events := rfl
@[simp] theorem writeTimerPeriod_returned (p : Nat) : (writeTimerPeriod p s).returned = s.returned := rfl
@[simp] theorem writeTimerPeriod_draws (p : Nat) : (writeTimerPeriod p s).draws = s.draws := rfl

@[simp] theorem writeLocal_cfg (bs : List Byte) : (writeLocal bs s).cfg = s.cfg := rfl
@[simp] theorem writeLocal_phase (bs : List Byte) : (writeLocal bs s).phase = s.phase := rfl
@[simp] theorem writeLocal_gie (bs : List Byte) : (writeLocal bs s).gie = s.gie := rfl
@[simp] theorem writeLocal_snap (bs : List Byte) : (writeLocal bs s).snap = s.snap := rfl
@[simp] theorem writeLocal_prevConfirm (bs : List Byte) : (writeLocal bs s).prevConfirm = s.prevConfirm := rfl
@[simp] theorem writeLocal_timeoutCount (bs : List Byte) : (writeLocal bs s).timeoutCount = s.timeoutCount := rfl
@[simp] theorem writeLocal_counter (bs : List Byte) : (writeLocal bs s).counter = s.counter := rfl
@[simp] theorem writeLocal_edgecap (bs : List Byte) : (writeLocal bs s).edgecap = s.edgecap := rfl
@[simp] theorem writeLocal_timerTo (bs : List Byte) : (writeLocal bs s).timerTo = s.timerTo := rfl
@[simp] theorem writeLocal_timerPeriod (bs : List Byte) : (writeLocal bs s).timerPeriod = s.timerPeriod := rfl
@[simp] theorem writeLocal_sw (bs : List Byte) : (writeLocal bs s).sw = s.sw := rfl
@[simp] theorem writeLocal_len (bs : List Byte) : (writeLocal bs s).len = s.len := rfl
@[simp] theorem writeLocal_inBuf (bs : List Byte) : (writeLocal bs s).inBuf = s.inBuf := rfl
@[simp] theorem writeLocal_outBuf (bs : List Byte) : (writeLocal bs s).outBuf = s.outBuf := rfl
@[simp] theorem writeLocal_localBuf (bs : List Byte) : (writeLocal bs s).localBuf = s.localBuf.writePrefix bs := rfl
@[simp] theorem writeLocal_fb (bs : List Byte) : (writeLocal bs s).fb = s.fb := rfl
@[simp] theorem writeLocal_disp (bs : List Byte) : (writeLocal bs s).disp = s.disp := rfl
@[simp] theorem writeLocal_fault (bs : List Byte) : (writeLocal bs s).fault = s.fault := rfl
@[simp] theorem writeLocal_refused (bs : List Byte) : (writeLocal bs s).refused = s.refused := rfl
@[simp] theorem writeLocal_trace (bs : List Byte) : (writeLocal bs s).trace = s.trace := rfl
@[simp] theorem writeLocal_events (bs : List Byte) : (writeLocal bs s).events = s.events := rfl
@[simp] theorem writeLocal_returned (bs : List Byte) : (writeLocal bs s).returned = s.returned := rfl
@[simp] theorem writeLocal_draws (bs : List Byte) : (writeLocal bs s).draws = s.draws := rfl

@[simp] theorem writeOut_cfg (bs : List Byte) : (writeOut bs s).cfg = s.cfg := rfl
@[simp] theorem writeOut_phase (bs : List Byte) : (writeOut bs s).phase = s.phase := rfl
@[simp] theorem writeOut_gie (bs : List Byte) : (writeOut bs s).gie = s.gie := rfl
@[simp] theorem writeOut_snap (bs : List Byte) : (writeOut bs s).snap = s.snap := rfl
@[simp] theorem writeOut_prevConfirm (bs : List Byte) : (writeOut bs s).prevConfirm = s.prevConfirm := rfl
@[simp] theorem writeOut_timeoutCount (bs : List Byte) : (writeOut bs s).timeoutCount = s.timeoutCount := rfl
@[simp] theorem writeOut_counter (bs : List Byte) : (writeOut bs s).counter = s.counter := rfl
@[simp] theorem writeOut_edgecap (bs : List Byte) : (writeOut bs s).edgecap = s.edgecap := rfl
@[simp] theorem writeOut_timerTo (bs : List Byte) : (writeOut bs s).timerTo = s.timerTo := rfl
@[simp] theorem writeOut_timerPeriod (bs : List Byte) : (writeOut bs s).timerPeriod = s.timerPeriod := rfl
@[simp] theorem writeOut_sw (bs : List Byte) : (writeOut bs s).sw = s.sw := rfl
@[simp] theorem writeOut_len (bs : List Byte) : (writeOut bs s).len = s.len := rfl
@[simp] theorem writeOut_inBuf (bs : List Byte) : (writeOut bs s).inBuf = s.inBuf := rfl
@[simp] theorem writeOut_outBuf (bs : List Byte) : (writeOut bs s).outBuf = s.outBuf.writePrefix bs := rfl
@[simp] theorem writeOut_localBuf (bs : List Byte) : (writeOut bs s).localBuf = s.localBuf := rfl
@[simp] theorem writeOut_fb (bs : List Byte) : (writeOut bs s).fb = s.fb := rfl
@[simp] theorem writeOut_disp (bs : List Byte) : (writeOut bs s).disp = s.disp := rfl
@[simp] theorem writeOut_fault (bs : List Byte) : (writeOut bs s).fault = s.fault := rfl
@[simp] theorem writeOut_refused (bs : List Byte) : (writeOut bs s).refused = s.refused := rfl
@[simp] theorem writeOut_trace (bs : List Byte) : (writeOut bs s).trace = s.trace := rfl
@[simp] theorem writeOut_events (bs : List Byte) : (writeOut bs s).events = s.events := rfl
@[simp] theorem writeOut_returned (bs : List Byte) : (writeOut bs s).returned = s.returned := rfl
@[simp] theorem writeOut_draws (bs : List Byte) : (writeOut bs s).draws = s.draws := rfl

@[simp] theorem writeSurface_cfg (bs : List Byte) : (writeSurface bs s).cfg = s.cfg := rfl
@[simp] theorem writeSurface_phase (bs : List Byte) : (writeSurface bs s).phase = s.phase := rfl
@[simp] theorem writeSurface_gie (bs : List Byte) : (writeSurface bs s).gie = s.gie := rfl
@[simp] theorem writeSurface_snap (bs : List Byte) : (writeSurface bs s).snap = s.snap := rfl
@[simp] theorem writeSurface_prevConfirm (bs : List Byte) : (writeSurface bs s).prevConfirm = s.prevConfirm := rfl
@[simp] theorem writeSurface_timeoutCount (bs : List Byte) : (writeSurface bs s).timeoutCount = s.timeoutCount := rfl
@[simp] theorem writeSurface_counter (bs : List Byte) : (writeSurface bs s).counter = s.counter := rfl
@[simp] theorem writeSurface_edgecap (bs : List Byte) : (writeSurface bs s).edgecap = s.edgecap := rfl
@[simp] theorem writeSurface_timerTo (bs : List Byte) : (writeSurface bs s).timerTo = s.timerTo := rfl
@[simp] theorem writeSurface_timerPeriod (bs : List Byte) : (writeSurface bs s).timerPeriod = s.timerPeriod := rfl
@[simp] theorem writeSurface_sw (bs : List Byte) : (writeSurface bs s).sw = s.sw := rfl
@[simp] theorem writeSurface_len (bs : List Byte) : (writeSurface bs s).len = s.len := rfl
@[simp] theorem writeSurface_inBuf (bs : List Byte) : (writeSurface bs s).inBuf = s.inBuf := rfl
@[simp] theorem writeSurface_outBuf (bs : List Byte) : (writeSurface bs s).outBuf = s.outBuf := rfl
@[simp] theorem writeSurface_localBuf (bs : List Byte) : (writeSurface bs s).localBuf = s.localBuf := rfl
@[simp] theorem writeSurface_fb (bs : List Byte) : (writeSurface bs s).fb = s.fb.writePrefix bs := rfl
@[simp] theorem writeSurface_disp (bs : List Byte) : (writeSurface bs s).disp = s.disp := rfl
@[simp] theorem writeSurface_fault (bs : List Byte) : (writeSurface bs s).fault = s.fault := rfl
@[simp] theorem writeSurface_refused (bs : List Byte) : (writeSurface bs s).refused = s.refused := rfl
@[simp] theorem writeSurface_trace (bs : List Byte) : (writeSurface bs s).trace = s.trace := rfl
@[simp] theorem writeSurface_events (bs : List Byte) : (writeSurface bs s).events = s.events := rfl
@[simp] theorem writeSurface_returned (bs : List Byte) : (writeSurface bs s).returned = s.returned := rfl
@[simp] theorem writeSurface_draws (bs : List Byte) : (writeSurface bs s).draws = s.draws := rfl

@[simp] theorem acknowledgeLength_cfg : (acknowledgeLength s).cfg = s.cfg := rfl
@[simp] theorem acknowledgeLength_phase : (acknowledgeLength s).phase = s.phase := rfl
@[simp] theorem acknowledgeLength_gie : (acknowledgeLength s).gie = s.gie := rfl
@[simp] theorem acknowledgeLength_snap : (acknowledgeLength s).snap = s.snap := rfl
@[simp] theorem acknowledgeLength_prevConfirm : (acknowledgeLength s).prevConfirm = s.prevConfirm := rfl
@[simp] theorem acknowledgeLength_timeoutCount : (acknowledgeLength s).timeoutCount = s.timeoutCount := rfl
@[simp] theorem acknowledgeLength_counter : (acknowledgeLength s).counter = s.counter := rfl
@[simp] theorem acknowledgeLength_edgecap : (acknowledgeLength s).edgecap = s.edgecap := rfl
@[simp] theorem acknowledgeLength_timerTo : (acknowledgeLength s).timerTo = s.timerTo := rfl
@[simp] theorem acknowledgeLength_timerPeriod : (acknowledgeLength s).timerPeriod = s.timerPeriod := rfl
@[simp] theorem acknowledgeLength_sw : (acknowledgeLength s).sw = s.sw := rfl
@[simp] theorem acknowledgeLength_len : (acknowledgeLength s).len = 0 := rfl
@[simp] theorem acknowledgeLength_inBuf : (acknowledgeLength s).inBuf = s.inBuf := rfl
@[simp] theorem acknowledgeLength_outBuf : (acknowledgeLength s).outBuf = s.outBuf := rfl
@[simp] theorem acknowledgeLength_localBuf : (acknowledgeLength s).localBuf = s.localBuf := rfl
@[simp] theorem acknowledgeLength_fb : (acknowledgeLength s).fb = s.fb := rfl
@[simp] theorem acknowledgeLength_disp : (acknowledgeLength s).disp = s.disp := rfl
@[simp] theorem acknowledgeLength_fault : (acknowledgeLength s).fault = s.fault := rfl
@[simp] theorem acknowledgeLength_refused : (acknowledgeLength s).refused = s.refused := rfl
@[simp] theorem acknowledgeLength_trace : (acknowledgeLength s).trace = s.trace := rfl
@[simp] theorem acknowledgeLength_events : (acknowledgeLength s).events = s.events := rfl
@[simp] theorem acknowledgeLength_returned : (acknowledgeLength s).returned = s.returned := rfl
@[simp] theorem acknowledgeLength_draws : (acknowledgeLength s).draws = s.draws := rfl

@[simp] theorem placeEvent_cfg (q : Stimulus) : (placeEvent q s).cfg = s.cfg := rfl
@[simp] theorem placeEvent_phase (q : Stimulus) : (placeEvent q s).phase = s.phase := rfl
@[simp] theorem placeEvent_gie (q : Stimulus) : (placeEvent q s).gie = s.gie := rfl
@[simp] theorem placeEvent_snap (q : Stimulus) : (placeEvent q s).snap = s.snap := rfl
@[simp] theorem placeEvent_prevConfirm (q : Stimulus) : (placeEvent q s).prevConfirm = s.prevConfirm := rfl
@[simp] theorem placeEvent_timeoutCount (q : Stimulus) : (placeEvent q s).timeoutCount = s.timeoutCount := rfl
@[simp] theorem placeEvent_counter (q : Stimulus) : (placeEvent q s).counter = s.counter := rfl
@[simp] theorem placeEvent_edgecap (q : Stimulus) : (placeEvent q s).edgecap = s.edgecap := rfl
@[simp] theorem placeEvent_timerTo (q : Stimulus) : (placeEvent q s).timerTo = s.timerTo := rfl
@[simp] theorem placeEvent_timerPeriod (q : Stimulus) : (placeEvent q s).timerPeriod = s.timerPeriod := rfl
@[simp] theorem placeEvent_sw (q : Stimulus) : (placeEvent q s).sw = s.sw := rfl
@[simp] theorem placeEvent_len (q : Stimulus) : (placeEvent q s).len = s.len := rfl
@[simp] theorem placeEvent_inBuf (q : Stimulus) : (placeEvent q s).inBuf = s.inBuf := rfl
@[simp] theorem placeEvent_outBuf (q : Stimulus) : (placeEvent q s).outBuf = s.outBuf := rfl
@[simp] theorem placeEvent_localBuf (q : Stimulus) : (placeEvent q s).localBuf = s.localBuf := rfl
@[simp] theorem placeEvent_fb (q : Stimulus) : (placeEvent q s).fb = s.fb := rfl
@[simp] theorem placeEvent_disp (q : Stimulus) : (placeEvent q s).disp = s.disp := rfl
@[simp] theorem placeEvent_fault (q : Stimulus) : (placeEvent q s).fault = s.fault := rfl
@[simp] theorem placeEvent_refused (q : Stimulus) : (placeEvent q s).refused = s.refused := rfl
@[simp] theorem placeEvent_trace (q : Stimulus) : (placeEvent q s).trace = s.trace := rfl
@[simp] theorem placeEvent_events (q : Stimulus) : (placeEvent q s).events = q :: s.events := rfl
@[simp] theorem placeEvent_returned (q : Stimulus) : (placeEvent q s).returned = s.returned := rfl
@[simp] theorem placeEvent_draws (q : Stimulus) : (placeEvent q s).draws = s.draws := rfl

@[simp] theorem digitUpdate_cfg : (digitUpdate s).cfg = s.cfg := rfl
@[simp] theorem digitUpdate_phase : (digitUpdate s).phase = s.phase := rfl
@[simp] theorem digitUpdate_gie : (digitUpdate s).gie = s.gie := rfl
@[simp] theorem digitUpdate_snap : (digitUpdate s).snap = s.snap := rfl
@[simp] theorem digitUpdate_prevConfirm : (digitUpdate s).prevConfirm = s.prevConfirm := rfl
@[simp] theorem digitUpdate_timeoutCount : (digitUpdate s).timeoutCount = s.timeoutCount := rfl
@[simp] theorem digitUpdate_counter : (digitUpdate s).counter = s.counter := rfl
@[simp] theorem digitUpdate_edgecap : (digitUpdate s).edgecap = s.edgecap := rfl
@[simp] theorem digitUpdate_timerTo : (digitUpdate s).timerTo = s.timerTo := rfl
@[simp] theorem digitUpdate_timerPeriod : (digitUpdate s).timerPeriod = s.timerPeriod := rfl
@[simp] theorem digitUpdate_sw : (digitUpdate s).sw = s.sw := rfl
@[simp] theorem digitUpdate_len : (digitUpdate s).len = s.len := rfl
@[simp] theorem digitUpdate_inBuf : (digitUpdate s).inBuf = s.inBuf := rfl
@[simp] theorem digitUpdate_outBuf : (digitUpdate s).outBuf = s.outBuf := rfl
@[simp] theorem digitUpdate_localBuf : (digitUpdate s).localBuf = s.localBuf := rfl
@[simp] theorem digitUpdate_fb : (digitUpdate s).fb = s.fb := rfl
@[simp] theorem digitUpdate_disp : (digitUpdate s).disp = digitBanks s.cfg.selDisplayMax (switchSel s.snap) s.counter := rfl
@[simp] theorem digitUpdate_fault : (digitUpdate s).fault = s.fault := rfl
@[simp] theorem digitUpdate_refused : (digitUpdate s).refused = s.refused := rfl
@[simp] theorem digitUpdate_trace : (digitUpdate s).trace = s.trace := rfl
@[simp] theorem digitUpdate_events : (digitUpdate s).events = s.events := rfl
@[simp] theorem digitUpdate_returned : (digitUpdate s).returned = s.returned := rfl
@[simp] theorem digitUpdate_draws : (digitUpdate s).draws = s.draws := rfl

end Sys2Proof.Machine
end

