-- ==== Sys2Proof/Laws/Procedures.lean ====
section
/-! SUPPORT. One lemma per shared operation that says what it can do: the guards, the readers, the transform, the compositor,
the transfer, the timer service. Proofs cite these and do not unfold the operations. -/

namespace Sys2Proof.Machine

/-! ### Guards and outcomes -/

@[simp] theorem blockEvent_true (e : String) (r : Result) : blockEvent true e r = r := rfl

@[simp] theorem blockEvent_false (e : String) (r : Result) : blockEvent false e r = .fault (.blockNotEnabled e) := rfl

@[simp] theorem producerEvent_true (e : String) (r : Result) : producerEvent true e r = r := rfl

@[simp] theorem producerEvent_false (e : String) (r : Result) : producerEvent false e r = .fault (.producerNotEnabled e) := rfl

@[simp] theorem commit_ok (s t : State) : commit s (.ok t) = .next t := rfl

@[simp] theorem commit_error (s : State) (f : FaultRecord) : commit s (.error f) = .next (raiseFault f s) := rfl

@[simp] theorem thenDo_ok (s : State) (f : State → Except FaultRecord State) : thenDo (.ok s) f = f s := rfl

@[simp] theorem thenDo_error (e : FaultRecord) (f : State → Except FaultRecord State) : thenDo (.error e) f = .error e := rfl

@[simp] theorem recordFault_none (f : FaultRecord) : recordFault f none = some f := rfl

@[simp] theorem recordFault_some (f g : FaultRecord) : recordFault f (some g) = some g := rfl

@[simp] theorem recordFault_isSome (f : FaultRecord) (r : Option FaultRecord) : (recordFault f r).isSome = true := by
  cases r <;> rfl

/-- A block event answers a next state only where it is enabled. -/
theorem blockEvent_next {b : Bool} {e : String} {r : Result} {t : State} (h : blockEvent b e r = .next t) :
    b = true ∧ r = .next t := by
  cases b with
  | true => exact ⟨rfl, h⟩
  | false => cases h

/-- A producer event answers a next state only where it is enabled. -/
theorem producerEvent_next {b : Bool} {e : String} {r : Result} {t : State} (h : producerEvent b e r = .next t) :
    b = true ∧ r = .next t := by
  cases b with
  | true => exact ⟨rfl, h⟩
  | false => cases h

/-- An event that may fault ends in its own state, or in the state before it with the fault taken. -/
theorem commit_next {s t : State} {r : Except FaultRecord State} (h : commit s r = .next t) :
    r = .ok t ∨ ∃ f, r = .error f ∧ t = raiseFault f s := by
  cases r with
  | ok u => simp only [commit_ok, Host.Outcome.next.injEq] at h; exact .inl (by rw [h])
  | error f => simp only [commit_error, Host.Outcome.next.injEq] at h; exact .inr ⟨f, rfl, h.symm⟩

/-- An event that may fault always has a next state. -/
theorem commit_isNext (s : State) (r : Except FaultRecord State) : ∃ t, commit s r = .next t := by
  cases r with
  | ok u => exact ⟨u, rfl⟩
  | error f => exact ⟨raiseFault f s, rfl⟩

/-! ### The readers -/

theorem readLocal_ok {n : Nat} {s : State} {bs : List Byte} (h : readLocal n s = .ok bs) :
    bs.length = n ∧ ∀ i (hi : i < bs.length), s.localBuf.read i = some bs[i] := by
  unfold readLocal at h
  split at h
  · next cs hr => cases h; exact Memory.readPrefix_ok hr
  · cases h

theorem readIn_ok {n : Nat} {s : State} {bs : List Byte} (h : readIn n s = .ok bs) :
    bs.length = n ∧ ∀ i (hi : i < bs.length), s.inBuf.read i = some bs[i] := by
  unfold readIn at h
  split at h
  · next cs hr => cases h; exact Memory.readPrefix_ok hr
  · cases h

theorem readLocal_error {n : Nat} {s : State} {f : FaultRecord} (hw : s.localBuf.wf) (h : readLocal n s = .error f) :
    ∃ i, f = .undefRead .localBuf i ∧ i < n ∧ s.localBuf.read i = none ∧ ∀ j, j < i → ∃ b, s.localBuf.read j = some b := by
  unfold readLocal at h
  split at h
  · cases h
  · next i hr => cases h; exact ⟨i, rfl, Memory.readPrefix_error hw hr⟩

theorem readIn_error {n : Nat} {s : State} {f : FaultRecord} (hw : s.inBuf.wf) (h : readIn n s = .error f) :
    ∃ i, f = .undefRead .inBuf i ∧ i < n ∧ s.inBuf.read i = none ∧ ∀ j, j < i → ∃ b, s.inBuf.read j = some b := by
  unfold readIn at h
  split at h
  · cases h
  · next i hr => cases h; exact ⟨i, rfl, Memory.readPrefix_error hw hr⟩

theorem readLocal_of_defined {n : Nat} {s : State} (hw : s.localBuf.wf) (h : ∀ i, i < n → s.localBuf.read i ≠ none) :
    ∃ bs, readLocal n s = .ok bs := by
  obtain ⟨bs, hb⟩ := Memory.readPrefix_of_defined hw h
  exact ⟨bs, by simp [readLocal, hb]⟩

theorem readIn_of_defined {n : Nat} {s : State} (hw : s.inBuf.wf) (h : ∀ i, i < n → s.inBuf.read i ≠ none) :
    ∃ bs, readIn n s = .ok bs := by
  obtain ⟨bs, hb⟩ := Memory.readPrefix_of_defined hw h
  exact ⟨bs, by simp [readIn, hb]⟩

theorem readLocal_of_undef {n i : Nat} {s : State} (hw : s.localBuf.wf) (hi : i < n) (hu : s.localBuf.read i = none)
    (hd : ∀ j, j < i → s.localBuf.read j ≠ none) : readLocal n s = .error (.undefRead .localBuf i) := by
  simp [readLocal, Memory.readPrefix_of_undef hw hi hu hd]

theorem readIn_of_undef {n i : Nat} {s : State} (hw : s.inBuf.wf) (hi : i < n) (hu : s.inBuf.read i = none)
    (hd : ∀ j, j < i → s.inBuf.read j ≠ none) : readIn n s = .error (.undefRead .inBuf i) := by
  simp [readIn, Memory.readPrefix_of_undef hw hi hu hd]

/-- What a transfer copied to LocalImageBuffer it reads back whole (60_exceptions.md R148). -/
theorem readLocal_writeLocal {n : Nat} {bs : List Byte} (h : bs.length = n) (s : State) :
    readLocal n (writeLocal bs s) = .ok bs := by
  subst h
  simp [readLocal, writeLocal, Memory.readPrefix_writePrefix]

theorem writeLocal_writeLocal {as bs : List Byte} (h : as.length = bs.length) (s : State) :
    writeLocal bs (writeLocal as s) = writeLocal bs s := by
  simp [writeLocal, Memory.writePrefix_writePrefix _ h]

/-! ### The transform engine -/

/-- Where the bytes read, the transform maps the selected function over them in place. -/
theorem transform_of_read {n : Nat} {k : Word32} {s : State} {bs : List Byte} (h : readLocal n s = .ok bs) :
    transform n k s = .ok (writeLocal (bs.map (transformByte (selectTransform k))) s) := by
  simp [transform, h]

/-- The transform ends in its written bytes or in the reader's fault. -/
theorem transform_cases (n : Nat) (k : Word32) (s : State) :
    (∃ bs, readLocal n s = .ok bs ∧ transform n k s = .ok (writeLocal (bs.map (transformByte (selectTransform k))) s)) ∨
    (∃ f, readLocal n s = .error f ∧ transform n k s = .error f) := by
  unfold transform
  split
  · next bs h => exact .inl ⟨bs, h, rfl⟩
  · next f h => exact .inr ⟨f, h, rfl⟩

/-! ### The compositor -/

/-- The compositor reports, faults on geometry, faults on an undef byte, or writes the whole frame (42_compositor.md R110). -/
theorem compose_cases (n : Nat) (s : State) :
    (isqrtExact n = none ∧ compose n s = .ok (emit .sizingError s)) ∨
    (∃ side, isqrtExact n = some side ∧ Config.surfH < side ∧ compose n s = .error (.geometry side)) ∨
    (∃ side f, isqrtExact n = some side ∧ side ≤ Config.surfH ∧ readLocal (side * side) s = .error f ∧ compose n s = .error f) ∨
    (∃ side bs, isqrtExact n = some side ∧ side ≤ Config.surfH ∧ readLocal (side * side) s = .ok bs ∧
      compose n s = .ok (writeSurface (frameBytes side bs.toArray) s)) := by
  unfold compose
  split
  · next h => exact .inl ⟨h, rfl⟩
  · next side h =>
    split
    · next hs => exact .inr (.inl ⟨side, h, hs, rfl⟩)
    · next hs =>
      split
      · next bs hb => exact .inr (.inr (.inr ⟨side, bs, h, Nat.le_of_not_lt hs, hb, rfl⟩))
      · next f hf => exact .inr (.inr (.inl ⟨side, f, h, Nat.le_of_not_lt hs, hf, rfl⟩))

@[simp] theorem frameBytes_length (side : Nat) (img : Array Byte) : (frameBytes side img).length = Config.surfPixels := by
  simp [frameBytes]

theorem frameBytes_getElem (side : Nat) (img : Array Byte) (p : Nat) (h : p < (frameBytes side img).length) :
    (frameBytes side img)[p] = pixelByte side img (p % Config.surfW) (p / Config.surfW) := by
  simp [frameBytes]

/-- The byte a frame holds at a pixel of the surface. -/
theorem read_frame (m : Memory) (side : Nat) (img : Array Byte) {x y : Nat} (hx : x < Config.surfW) (hy : y < Config.surfH) :
    (m.writePrefix (frameBytes side img)).read (pixelOffset x y) = some (pixelByte side img x y) := by
  have hW : Config.surfW = 320 := rfl
  have hH : Config.surfH = 240 := rfl
  have hP : Config.surfPixels = 76800 := rfl
  have hO : pixelOffset x y = y * 320 + x := rfl
  have h : pixelOffset x y < (frameBytes side img).length := by rw [frameBytes_length, hP, hO]; omega
  rw [Memory.read_writePrefix, dif_pos h, frameBytes_getElem]
  have h1 : pixelOffset x y % Config.surfW = x := by rw [hO, hW]; omega
  have h2 : pixelOffset x y / Config.surfW = y := by rw [hO, hW]; omega
  rw [h1, h2]

/-- The inside test of 42_compositor.md R113, with the offsets of R112 written out. -/
theorem insideImage_iff (side x y : Nat) :
    insideImage side x y = true ↔
      (320 - side) / 2 ≤ x ∧ x < (320 - side) / 2 + side ∧ (240 - side) / 2 ≤ y ∧ y < (240 - side) / 2 + side := by
  simp only [insideImage, Bool.and_eq_true, decide_eq_true_eq, and_assoc]
  rfl

/-- An inside pixel's source byte lies in the source image (R113: no source pixel is cropped, none is missing). -/
theorem sourceOffset_lt {side x y : Nat} (h : insideImage side x y = true) : sourceOffset side x y < side * side := by
  obtain ⟨hx1, hx2, hy1, hy2⟩ := (insideImage_iff side x y).1 h
  have ey : y - (240 - side) / 2 + 1 ≤ side := by omega
  have ex : x - (320 - side) / 2 < side := by omega
  show (y - (240 - side) / 2) * side + (x - (320 - side) / 2) < side * side
  calc (y - (240 - side) / 2) * side + (x - (320 - side) / 2)
      < (y - (240 - side) / 2) * side + side := by omega
    _ = (y - (240 - side) / 2 + 1) * side := by ring
    _ ≤ side * side := Nat.mul_le_mul_right _ ey

/-! ### The transfer -/

/-- A transfer with no length pending does nothing (40_handshake.md R85 step 1). -/
theorem runTransfer_idle {s : State} (k : Word32) (render : Bool) (h : s.len = 0) : runTransfer k render s = .ok s := by
  simp [runTransfer, h]

/-- A transfer over an undef inbound byte faults and does nothing else (R85 step 2). -/
theorem runTransfer_readError {s : State} {f : FaultRecord} (k : Word32) (render : Bool) (h : s.len ≠ 0)
    (hr : readIn (clampLen s.len) s = .error f) : runTransfer k render s = .error f := by
  rw [runTransfer, if_neg h]
  simp [hr]

/-- The state of a transfer after its step 5: the transformed bytes in LocalImageBuffer and OutBuffer. -/
def transferred (k : Word32) (bs : List Byte) (s : State) : State :=
  writeOut (bs.map (transformByte (selectTransform k))) (writeLocal (bs.map (transformByte (selectTransform k))) s)

/-- A transfer whose bytes read: steps 3 to 5 leave `transferred`, then the frame when rendering, then the acknowledgment. -/
theorem runTransfer_of_read {s : State} {bs : List Byte} (k : Word32) (render : Bool) (h : s.len ≠ 0)
    (hr : readIn (clampLen s.len) s = .ok bs) :
    runTransfer k render s =
      thenDo (if render then compose (clampLen s.len) (transferred k bs s) else .ok (transferred k bs s))
        (fun t => .ok (acknowledgeLength t)) := by
  have hl := (readIn_ok hr).1
  have hm : (bs.map (transformByte (selectTransform k))).length = clampLen s.len := by simp [hl]
  have h1 : transform (clampLen s.len) k (writeLocal bs s) =
      .ok (writeLocal (bs.map (transformByte (selectTransform k))) s) := by
    rw [transform_of_read (readLocal_writeLocal hl s), writeLocal_writeLocal (by simp)]
  have h2 : copyOut (clampLen s.len) (writeLocal (bs.map (transformByte (selectTransform k))) s) = .ok (transferred k bs s) := by
    simp [copyOut, readLocal_writeLocal hm, transferred]
  rw [runTransfer, if_neg h]
  simp [hr, h1, h2]

/-- The bytes the compositor of a transfer reads are those the transfer wrote. -/
theorem readLocal_transferred {s : State} {bs : List Byte} (k : Word32) {n : Nat} (h : bs.length = n) :
    readLocal n (transferred k bs s) = .ok (bs.map (transformByte (selectTransform k))) := by
  have := readLocal_writeLocal (n := n) (bs := bs.map (transformByte (selectTransform k))) (by simp [h]) s
  simpa [readLocal, transferred] using this

/-! ### The timer service and interrupt entry -/

section
variable (s : State)

/-- The three forms of steps 1 and 2 of a dispatch: no tick pending, a tick that is not the tenth, a tenth tick. -/
theorem enterDispatch_forms :
    (s.timerTo = false ∧ enterDispatch s = takeSnapshot s) ∨
    (s.timerTo = true ∧ tenthTick (s.timeoutCount + 1) = false ∧ enterDispatch s = { s with
      snap := s.sw, timerTo := false, timerPeriod := s.cfg.timerPeriod, timeoutCount := s.timeoutCount + 1 }) ∨
    (s.timerTo = true ∧ tenthTick (s.timeoutCount + 1) = true ∧ enterDispatch s = { s with
      snap := s.sw, timerTo := false, timerPeriod := s.cfg.timerPeriod, timeoutCount := s.timeoutCount + 1,
      counter := s.counter + 1, trace := s.trace ++ [.todTick] }) := by
  rcases Bool.eq_false_or_eq_true s.timerTo with h | h
  · refine .inr ?_
    have e : enterDispatch s = countSecond { s with
        snap := s.sw, timerTo := false, timerPeriod := s.cfg.timerPeriod, timeoutCount := s.timeoutCount + 1 } := by
      simp only [enterDispatch, takeSnapshot_timerTo, h]; rfl
    rcases Bool.eq_false_or_eq_true (tenthTick (s.timeoutCount + 1)) with h2 | h2
    · exact .inr ⟨h, h2, by rw [e, countSecond, if_pos h2]; rfl⟩
    · exact .inl ⟨h, h2, by rw [e, countSecond, if_neg (by rw [h2]; exact Bool.false_ne_true)]⟩
  · exact .inl ⟨h, by simp [enterDispatch, h]⟩

/-- The tick count after steps 1 and 2 of a dispatch (43_dispatcher.md R129). -/
theorem enterDispatch_timeoutCount :
    (enterDispatch s).timeoutCount = if s.timerTo then s.timeoutCount + 1 else s.timeoutCount := by
  rcases enterDispatch_forms s with ⟨h, e⟩ | ⟨h, h2, e⟩ | ⟨h, h2, e⟩ <;> simp_all

theorem enterDispatch_counter :
    (enterDispatch s).counter = if s.timerTo && tenthTick (s.timeoutCount + 1) then s.counter + 1 else s.counter := by
  rcases enterDispatch_forms s with ⟨h, e⟩ | ⟨h, h2, e⟩ | ⟨h, h2, e⟩ <;> simp_all

theorem enterDispatch_trace :
    (enterDispatch s).trace = if s.timerTo && tenthTick (s.timeoutCount + 1) then s.trace ++ [.todTick] else s.trace := by
  rcases enterDispatch_forms s with ⟨h, e⟩ | ⟨h, h2, e⟩ | ⟨h, h2, e⟩ <;> simp_all

@[simp] theorem enterDispatch_timerTo : (enterDispatch s).timerTo = false := by
  rcases enterDispatch_forms s with ⟨h, e⟩ | ⟨h, h2, e⟩ | ⟨h, h2, e⟩ <;> simp_all

theorem enterDispatch_timerPeriod :
    (enterDispatch s).timerPeriod = if s.timerTo then s.cfg.timerPeriod else s.timerPeriod := by
  rcases enterDispatch_forms s with ⟨h, e⟩ | ⟨h, h2, e⟩ | ⟨h, h2, e⟩ <;> simp_all

@[simp] theorem enterDispatch_snap : (enterDispatch s).snap = s.sw := by
  rcases enterDispatch_forms s with ⟨h, e⟩ | ⟨h, h2, e⟩ | ⟨h, h2, e⟩ <;> simp_all

@[simp] theorem enterDispatch_cfg : (enterDispatch s).cfg = s.cfg := by
  rcases enterDispatch_forms s with ⟨h, e⟩ | ⟨h, h2, e⟩ | ⟨h, h2, e⟩ <;> simp_all

@[simp] theorem enterDispatch_phase : (enterDispatch s).phase = s.phase := by
  rcases enterDispatch_forms s with ⟨h, e⟩ | ⟨h, h2, e⟩ | ⟨h, h2, e⟩ <;> simp_all

@[simp] theorem enterDispatch_gie : (enterDispatch s).gie = s.gie := by
  rcases enterDispatch_forms s with ⟨h, e⟩ | ⟨h, h2, e⟩ | ⟨h, h2, e⟩ <;> simp_all

@[simp] theorem enterDispatch_prevConfirm : (enterDispatch s).prevConfirm = s.prevConfirm := by
  rcases enterDispatch_forms s with ⟨h, e⟩ | ⟨h, h2, e⟩ | ⟨h, h2, e⟩ <;> simp_all

@[simp] theorem enterDispatch_edgecap : (enterDispatch s).edgecap = s.edgecap := by
  rcases enterDispatch_forms s with ⟨h, e⟩ | ⟨h, h2, e⟩ | ⟨h, h2, e⟩ <;> simp_all

@[simp] theorem enterDispatch_sw : (enterDispatch s).sw = s.sw := by
  rcases enterDispatch_forms s with ⟨h, e⟩ | ⟨h, h2, e⟩ | ⟨h, h2, e⟩ <;> simp_all

@[simp] theorem enterDispatch_len : (enterDispatch s).len = s.len := by
  rcases enterDispatch_forms s with ⟨h, e⟩ | ⟨h, h2, e⟩ | ⟨h, h2, e⟩ <;> simp_all

@[simp] theorem enterDispatch_inBuf : (enterDispatch s).inBuf = s.inBuf := by
  rcases enterDispatch_forms s with ⟨h, e⟩ | ⟨h, h2, e⟩ | ⟨h, h2, e⟩ <;> simp_all

@[simp] theorem enterDispatch_outBuf : (enterDispatch s).outBuf = s.outBuf := by
  rcases enterDispatch_forms s with ⟨h, e⟩ | ⟨h, h2, e⟩ | ⟨h, h2, e⟩ <;> simp_all

@[simp] theorem enterDispatch_localBuf : (enterDispatch s).localBuf = s.localBuf := by
  rcases enterDispatch_forms s with ⟨h, e⟩ | ⟨h, h2, e⟩ | ⟨h, h2, e⟩ <;> simp_all

@[simp] theorem enterDispatch_fb : (enterDispatch s).fb = s.fb := by
  rcases enterDispatch_forms s with ⟨h, e⟩ | ⟨h, h2, e⟩ | ⟨h, h2, e⟩ <;> simp_all

@[simp] theorem enterDispatch_disp : (enterDispatch s).disp = s.disp := by
  rcases enterDispatch_forms s with ⟨h, e⟩ | ⟨h, h2, e⟩ | ⟨h, h2, e⟩ <;> simp_all

@[simp] theorem enterDispatch_fault : (enterDispatch s).fault = s.fault := by
  rcases enterDispatch_forms s with ⟨h, e⟩ | ⟨h, h2, e⟩ | ⟨h, h2, e⟩ <;> simp_all

@[simp] theorem enterDispatch_refused : (enterDispatch s).refused = s.refused := by
  rcases enterDispatch_forms s with ⟨h, e⟩ | ⟨h, h2, e⟩ | ⟨h, h2, e⟩ <;> simp_all

@[simp] theorem enterDispatch_events : (enterDispatch s).events = s.events := by
  rcases enterDispatch_forms s with ⟨h, e⟩ | ⟨h, h2, e⟩ | ⟨h, h2, e⟩ <;> simp_all

@[simp] theorem enterDispatch_returned : (enterDispatch s).returned = s.returned := by
  rcases enterDispatch_forms s with ⟨h, e⟩ | ⟨h, h2, e⟩ | ⟨h, h2, e⟩ <;> simp_all

@[simp] theorem enterDispatch_draws : (enterDispatch s).draws = s.draws := by
  rcases enterDispatch_forms s with ⟨h, e⟩ | ⟨h, h2, e⟩ | ⟨h, h2, e⟩ <;> simp_all

/-- Every other field is as it was: steps 1 and 2 of a dispatch are exactly these writes. -/
theorem enterDispatch_eq :
    enterDispatch s = { s with
      snap := s.sw, timerTo := false, timerPeriod := (enterDispatch s).timerPeriod,
      timeoutCount := (enterDispatch s).timeoutCount, counter := (enterDispatch s).counter,
      trace := (enterDispatch s).trace } := by
  have h : ∀ a b : State, a.cfg = b.cfg → a.phase = b.phase → a.gie = b.gie → a.snap = b.snap →
      a.prevConfirm = b.prevConfirm → a.timeoutCount = b.timeoutCount → a.counter = b.counter → a.edgecap = b.edgecap →
      a.timerTo = b.timerTo → a.timerPeriod = b.timerPeriod → a.sw = b.sw → a.len = b.len → a.inBuf = b.inBuf →
      a.outBuf = b.outBuf → a.localBuf = b.localBuf → a.fb = b.fb → a.disp = b.disp → a.fault = b.fault →
      a.refused = b.refused → a.trace = b.trace → a.events = b.events → a.returned = b.returned → a.draws = b.draws →
      a = b := by
    intro a b
    cases a; cases b
    simp only [State.mk.injEq]
    intros
    simp_all
  apply h <;> simp

end

end Sys2Proof.Machine
end

