-- ==== Sys2Proof/Laws/Dispatcher.lean ====
section
/-! SUPPORT. The laws of the dispatcher: its entry as one record, its step 3b by cases, the acknowledgment of the edge capture. -/

namespace Sys2Proof.Machine

/-- Steps 1 and 2 of a dispatch are the snapshot and `ticked`. -/
theorem enterDispatch_ticked (s : State) : enterDispatch s = { s.ticked with snap := s.sw } := by
  unfold State.ticked
  rcases enterDispatch_forms s with ⟨h, e⟩ | ⟨h, h2, e⟩ | ⟨h, h2, e⟩
  · rw [e, if_neg (by rw [h]; exact Bool.false_ne_true)]
    rfl
  · have hn : ¬ ((s.timeoutCount + 1).toNat % 10 = 0) := by simpa [tenthTick, Config.ticksPerSecond] using h2
    rw [e, if_pos h, if_neg hn, if_neg hn]
  · have hy : (s.timeoutCount + 1).toNat % 10 = 0 := by simpa [tenthTick, Config.ticksPerSecond] using h2
    rw [e, if_pos h, if_pos hy, if_pos hy]

/-- Step 3b with no length pending or no change of the confirm bit (43_dispatcher.md R127, R128). -/
theorem serviceEdge_quiet {s : State} {v : Word32} (hv : s.snap = v) (h : s.len = 0 ∨ confirmBit v = s.prevConfirm) :
    serviceEdge s = .ok { s with prevConfirm := confirmBit v, phase := .ack } := by
  subst hv
  have hc : (decide (s.len ≠ 0) && confirmEdge (confirmBit s.snap) s.prevConfirm) = false := by
    rcases h with h | h
    · simp [h]
    · simp [confirmEdge, h]
  unfold serviceEdge
  simp only
  rw [hc, if_neg Bool.false_ne_true]
  rfl

/-- Step 3b with a length pending and a change of the confirm bit, in either direction (R127). -/
theorem serviceEdge_edge {s : State} {v : Word32} (hv : s.snap = v) (hl : s.len ≠ 0) (hc : confirmBit v ≠ s.prevConfirm) :
    serviceEdge s = thenDo (runTransfer (switchSel v) true { s with prevConfirm := confirmBit v }) awaitAck := by
  subst hv
  have he : (decide (s.len ≠ 0) && confirmEdge (confirmBit s.snap) s.prevConfirm) = true := by
    rw [decide_eq_true hl, confirmEdge, Bool.true_and, bne_iff_ne]
    exact hc
  unfold serviceEdge
  simp only
  rw [he, if_pos rfl]

/-- A dispatch may begin and the switch source is pending: the enabling condition of a switch dispatch (R123). -/
theorem switchEnabled {s : State} (hp : s.phase = .idle) (hg : s.gie = true) (he : s.edgecap &&& s.cfg.swIrqMask ≠ 0) :
    (dispatchOpen s && irqSwitch s) = true := by
  rw [dispatchOpen, irqSwitch, decide_eq_true hp, decide_eq_true he, hg]
  rfl

/-- All-ones written to the edge capture clears every bit of a SW_WIDTH-bit value (30_encoding.md R69; R125). -/
theorem andNot_onesMask {w : Nat} {e : Word32} (he : e.toNat < 2 ^ w) : e &&& ~~~ onesMask w = 0 := by
  apply BitVec.eq_of_getLsbD_eq
  intro i hi
  by_cases hiw : i < w
  · have h1 : (onesMask w).getLsbD i = true := by
      simp [onesMask, BitVec.getLsbD_ofNat, Nat.testBit_two_pow_sub_one, hi, hiw]
    simp [BitVec.getLsbD_and, BitVec.getLsbD_not, h1]
  · have h1 : e.getLsbD i = false :=
      Nat.testBit_lt_two_pow (Nat.lt_of_lt_of_le he (Nat.pow_le_pow_right (by decide) (by omega)))
    simp [BitVec.getLsbD_and, h1]

/-- A switch vector masked to SW_WIDTH bits has SW_WIDTH bits. -/
theorem and_onesMask_lt (w : Nat) (e : Word32) : (e &&& onesMask w).toNat < 2 ^ w := by
  rcases Nat.lt_or_ge 32 w with h | h
  · exact Nat.lt_trans (e &&& onesMask w).isLt (Nat.pow_lt_pow_right (by decide) h)
  · have hp : 2 ^ w ≤ 2 ^ 32 := Nat.pow_le_pow_right (by decide) h
    have h0 : 0 < 2 ^ w := Nat.two_pow_pos w
    simp only [onesMask, BitVec.toNat_and, BitVec.toNat_ofNat]
    refine Nat.lt_of_le_of_lt Nat.and_le_right ?_
    rw [Nat.mod_eq_of_lt (by omega)]
    omega

end Sys2Proof.Machine
end

