-- ==== Sys2Proof/Laws/Encoding.lean ====
section
/-! SUPPORT. The laws of event words: what a word made of a code and fields holds, and what the decoder's checks answer. -/

namespace Sys2Proof

/-- The number of a word made of a code and its fields `w[55:0]`. -/
theorem eventWord_toNat {code body : Nat} (hc : code < 256) (hb : body < 2 ^ 56) :
    (eventWord code body).toNat = code * 2 ^ 56 + body := by
  simp only [eventWord, BitVec.toNat_ofNat]
  omega

/-- The code of a word made of a code and its fields. -/
theorem eventCode_eventWord {code body : Nat} (hc : code < 256) (hb : body < 2 ^ 56) : eventCode (eventWord code body) = code := by
  simp only [eventCode, field, eventWord_toNat hc hb]
  omega

/-- A field below the code is a field of the number `w[55:0]`. -/
theorem field_eventWord {code body lo n : Nat} (hc : code < 256) (hb : body < 2 ^ 56) (h : lo + n ≤ 56) :
    field (eventWord code body) lo n = body / 2 ^ lo % 2 ^ n := by
  simp only [field, eventWord_toNat hc hb]
  obtain ⟨k, hk⟩ : ∃ k, 56 = lo + n + k := ⟨56 - (lo + n), by omega⟩
  rw [hk, pow_add, pow_add, show code * (2 ^ lo * 2 ^ n * 2 ^ k) + body = body + 2 ^ lo * (2 ^ n * (2 ^ k * code)) by ring,
    Nat.add_mul_div_left _ _ (by positivity), Nat.add_mul_mod_self_left]

/-- The decoder accepts exactly where the reserved bits are 0 and the constraint holds, and then gives the instruction. -/
theorem accept_ok {r c : Bool} {i j : Instr} : accept r c i = .ok j ↔ r = true ∧ c = true ∧ i = j := by
  cases r <;> cases c <;> simp [accept]

/-- Every selector of 4 or more names UNSUPPORTED (30_encoding.md R66). -/
theorem selectTransform_unsupported {sel : Word32} (h : 4 ≤ sel.toNat) : selectTransform sel = .unsupported := by
  have hne : ∀ k : Nat, k < 4 → ¬ sel = BitVec.ofNat 32 k := by
    rintro k hk rfl
    simp only [BitVec.toNat_ofNat] at h
    omega
  exact (if_neg (hne 0 (by omega))).trans ((if_neg (hne 1 (by omega))).trans
    ((if_neg (hne 2 (by omega))).trans (if_neg (hne 3 (by omega)))))

end Sys2Proof
end

