-- ==== Sys2Proof/Laws/Exec.lean ====
section
/-! SUPPORT. What each event that may fault or may have no step can do: one lemma per meaning, cited by the statements about
every event. -/

namespace Sys2Proof.Machine

/-- A transfer that does not fault: nothing with no length pending; else the transformed bytes, then, when rendering, one
report or the whole frame, and the length register cleared (40_handshake.md R85). -/
theorem runTransfer_ok {k : Word32} {render : Bool} {s t : State} (h : runTransfer k render s = .ok t) :
    (s.len = 0 ∧ t = s) ∨
    ∃ bs, s.len ≠ 0 ∧ readIn (clampLen s.len) s = .ok bs ∧
      ((render = false ∧ t = acknowledgeLength (transferred k bs s)) ∨
       (render = true ∧ isqrtExact (clampLen s.len) = none ∧
        t = acknowledgeLength (emit .sizingError (transferred k bs s))) ∨
       (render = true ∧ ∃ side, isqrtExact (clampLen s.len) = some side ∧ side ≤ Config.surfH ∧
        t = acknowledgeLength (writeSurface
          (frameBytes side (bs.map (transformByte (selectTransform k))).toArray) (transferred k bs s)))) := by
  by_cases hl : s.len = 0
  · rw [runTransfer_idle k render hl] at h
    cases h
    exact .inl ⟨hl, rfl⟩
  · right
    cases hr : readIn (clampLen s.len) s with
    | error f => rw [runTransfer_readError k render hl hr] at h; cases h
    | ok bs =>
      refine ⟨bs, hl, rfl, ?_⟩
      rw [runTransfer_of_read k render hl hr] at h
      cases render with
      | false =>
        rw [if_neg Bool.false_ne_true, thenDo_ok] at h
        cases h
        exact .inl ⟨rfl, rfl⟩
      | true =>
        right
        rw [if_pos rfl] at h
        rcases compose_cases (clampLen s.len) (transferred k bs s) with ⟨h1, h2⟩ | ⟨side, h1, h2, h3⟩ |
          ⟨side, f, h1, h2, h3, h4⟩ | ⟨side, cs, h1, h2, h3, h4⟩
        · rw [h2, thenDo_ok] at h
          cases h
          exact .inl ⟨rfl, h1, rfl⟩
        · rw [h3] at h; cases h
        · rw [h4] at h; cases h
        · rw [h4, thenDo_ok] at h
          cases h
          refine .inr ⟨rfl, side, h1, h2, ?_⟩
          have hsq : side * side = clampLen s.len := by
            unfold isqrtExact at h1
            simp only at h1
            split at h1
            · next h5 => cases h1; exact h5
            · cases h1
          have h5 := readLocal_transferred (s := s) k (hsq ▸ (readIn_ok hr).1 : bs.length = side * side)
          rw [h5] at h3
          cases h3
          rfl

/-- The fields a transfer that does not fault may change. -/
theorem runTransfer_frame {k : Word32} {render : Bool} {s t : State} (h : runTransfer k render s = .ok t) :
    t = { s with len := 0, outBuf := t.outBuf, localBuf := t.localBuf, fb := t.fb, trace := t.trace } := by
  rcases runTransfer_ok h with ⟨h1, rfl⟩ | ⟨bs, -, -, ⟨-, rfl⟩ | ⟨-, -, rfl⟩ | ⟨-, side, -, -, rfl⟩⟩
  · rw [← h1]
  all_goals rfl

/-- What a transfer that does not fault keeps: with a length pending, only `runTransfer_frame`'s fields change, no token is
removed, the surface is kept without rendering, and OutBuffer is kept at and above the clamped length (R85, R89, R93). -/
theorem runTransfer_kept {k : Word32} {render : Bool} {s t : State} (h : runTransfer k render s = .ok t) :
    (s.len = 0 ∧ t = s) ∨
    (s.len ≠ 0 ∧ t.len = 0 ∧ s.trace <+: t.trace ∧ (render = false → t.fb = s.fb) ∧
      ∀ x, clampLen s.len ≤ x → t.outBuf.read x = s.outBuf.read x) := by
  have hout : ∀ bs : List Byte, readIn (clampLen s.len) s = .ok bs → ∀ x, clampLen s.len ≤ x →
      (transferred k bs s).outBuf.read x = s.outBuf.read x := by
    intro bs hb x hx
    simp only [transferred, writeOut_outBuf, writeLocal_outBuf]
    rw [Memory.read_writePrefix, dif_neg]
    rw [List.length_map, (readIn_ok hb).1]
    exact Nat.not_lt.2 hx
  rcases runTransfer_ok h with ⟨h1, rfl⟩ | ⟨bs, hl, hb, ⟨h2, rfl⟩ | ⟨h2, -, rfl⟩ | ⟨h2, side, -, -, rfl⟩⟩
  · exact .inl ⟨h1, rfl⟩
  · exact .inr ⟨hl, rfl, List.prefix_rfl, fun _ => rfl, hout bs hb⟩
  · exact .inr ⟨hl, rfl, List.prefix_append _ _, fun h => absurd (h.symm.trans h2) Bool.false_ne_true, hout bs hb⟩
  · exact .inr ⟨hl, rfl, List.prefix_rfl, fun h => absurd (h.symm.trans h2) Bool.false_ne_true, hout bs hb⟩

/-- BOOT in BOOT, its two cases of R90 as one: a transfer with no length pending does nothing. -/
theorem execBoot_eq {s : State} (h : s.phase = .boot) :
    execBoot s = commit s (thenDo (runTransfer (switchSel s.sw) false (takeSnapshot s)) finishBoot) := by
  have e : (if (takeSnapshot s).len = 0 then Except.ok (takeSnapshot s)
      else runTransfer (switchSel (takeSnapshot s).snap) false (takeSnapshot s)) =
      runTransfer (switchSel s.sw) false (takeSnapshot s) := by
    split
    · next hl => exact (runTransfer_idle _ _ hl).symm
    · rfl
  simp only [execBoot, decide_eq_true h, blockEvent_true, e]

/-- BOOT: enabled in BOOT; a fault, or the transfer without rendering under the snapshot's selector and the interrupt
enable. -/
theorem execBoot_next {s t : State} (h : execBoot s = .next t) :
    s.phase = .boot ∧ ((∃ f, t = raiseFault f s) ∨
      ∃ u, runTransfer (switchSel s.sw) false (takeSnapshot s) = .ok u ∧ t = returnToIdle { u with gie := true }) := by
  have hp : s.phase = .boot := of_decide_eq_true (blockEvent_next h).1
  refine ⟨hp, ?_⟩
  rw [execBoot_eq hp] at h
  rcases commit_next h with h1 | ⟨f, -, rfl⟩
  · right
    cases hr : runTransfer (switchSel s.sw) false (takeSnapshot s) with
    | error f => rw [hr] at h1; cases h1
    | ok u => rw [hr, thenDo_ok] at h1; cases h1; exact ⟨u, rfl, rfl⟩
  · exact .inl ⟨f, rfl⟩

/-- RUN_TRANSFER: enabled in IDLE; a fault, or the transfer under the live switches' selector. -/
theorem execRunTransfer_next {render : Bool} {s t : State} (h : execRunTransfer render s = .next t) :
    s.phase = .idle ∧ ((∃ f, t = raiseFault f s) ∨ runTransfer (switchSel s.sw) render s = .ok t) := by
  unfold execRunTransfer at h
  obtain ⟨hb, hc⟩ := blockEvent_next h
  refine ⟨of_decide_eq_true hb, ?_⟩
  rcases commit_next hc with h1 | ⟨f, -, rfl⟩
  · exact .inr h1
  · exact .inl ⟨f, rfl⟩

/-- APPLY: enabled in IDLE; a fault, or the mapped bytes. -/
theorem execApply_next {len : BitVec 17} {k : Word32} {s t : State} (h : execApply len k s = .next t) :
    s.phase = .idle ∧ ((∃ f, readLocal len.toNat s = .error f ∧ t = raiseFault f s) ∨
      ∃ bs, readLocal len.toNat s = .ok bs ∧ t = writeLocal (bs.map (transformByte (selectTransform k))) s) := by
  unfold execApply at h
  obtain ⟨hb, hc⟩ := blockEvent_next h
  refine ⟨of_decide_eq_true hb, ?_⟩
  rcases transform_cases len.toNat k s with ⟨bs, h1, h2⟩ | ⟨f, h1, h2⟩
  · rw [h2] at hc; cases hc; exact .inr ⟨bs, h1, rfl⟩
  · rw [h2] at hc; cases hc; exact .inl ⟨f, h1, rfl⟩

/-- RENDER: enabled in IDLE; a report, a fault, or the whole frame. -/
theorem execRender_next {len : BitVec 17} {s t : State} (h : execRender len s = .next t) :
    s.phase = .idle ∧ (t = emit .sizingError s ∨ (∃ f, t = raiseFault f s) ∨
      ∃ bs : List Byte, bs.length = Config.surfPixels ∧ t = writeSurface bs s) := by
  unfold execRender at h
  obtain ⟨hb, hc⟩ := blockEvent_next h
  refine ⟨of_decide_eq_true hb, ?_⟩
  rcases compose_cases len.toNat s with ⟨-, h2⟩ | ⟨side, -, -, h2⟩ | ⟨side, f, -, -, -, h2⟩ | ⟨side, cs, -, -, -, h2⟩ <;>
    rw [h2] at hc <;> cases hc
  · exact .inl rfl
  · exact .inr (.inl ⟨_, rfl⟩)
  · exact .inr (.inl ⟨_, rfl⟩)
  · exact .inr (.inr ⟨_, frameBytes_length _ _, rfl⟩)

/-- DISPATCH for the timer: enabled in IDLE with interrupts on and the timer pending; steps 1 and 2, then the digits. -/
theorem execDispatchTimer_next {s t : State} (h : execDispatchTimer s = .next t) :
    s.phase = .idle ∧ s.gie = true ∧ s.timerTo = true ∧ t = digitUpdate (enterDispatch s) := by
  unfold execDispatchTimer at h
  obtain ⟨hb, hc⟩ := blockEvent_next h
  cases hc
  simp only [dispatchOpen, irqTimer, Bool.and_eq_true, decide_eq_true_eq] at hb
  exact ⟨hb.1.1, hb.1.2, hb.2.1, rfl⟩

/-- DISPATCH for the switch edge: enabled in IDLE with interrupts on and a masked capture; a fault of its transfer; steps 1
and 2 only, on the exit bit; no transfer; or one transfer with rendering. -/
theorem execDispatchSwitch_next {s t : State} (h : execDispatchSwitch s = .next t) :
    s.phase = .idle ∧ s.gie = true ∧ irqSwitch s = true ∧
    ((exitBit s.sw = false ∧ s.len ≠ 0 ∧ confirmBit s.sw ≠ s.prevConfirm ∧ ∃ f, t = raiseFault f s) ∨
     (exitBit s.sw = true ∧ t = enterDispatch s) ∨
     (exitBit s.sw = false ∧ (s.len = 0 ∨ confirmBit s.sw = s.prevConfirm) ∧
      t = { enterDispatch s with prevConfirm := confirmBit s.sw, phase := .ack }) ∨
     (exitBit s.sw = false ∧ s.len ≠ 0 ∧ confirmBit s.sw ≠ s.prevConfirm ∧
      ∃ u, runTransfer (switchSel s.sw) true { enterDispatch s with prevConfirm := confirmBit s.sw } = .ok u ∧
        t = { u with phase := .ack })) := by
  unfold execDispatchSwitch at h
  obtain ⟨hb, hc⟩ := blockEvent_next h
  simp only [dispatchOpen, Bool.and_eq_true, decide_eq_true_eq] at hb
  refine ⟨hb.1.1, hb.1.2, hb.2, ?_⟩
  simp only [enterDispatch_snap] at hc
  by_cases hx : exitBit s.sw = true
  · rw [if_pos hx] at hc
    cases hc
    exact .inr (.inl ⟨hx, rfl⟩)
  · rw [if_neg hx] at hc
    have hx' : exitBit s.sw = false := by simpa using hx
    by_cases hq : s.len = 0 ∨ confirmBit s.sw = s.prevConfirm
    · rw [serviceEdge_quiet (enterDispatch_snap s) (by rwa [enterDispatch_len, enterDispatch_prevConfirm]), commit_ok] at hc
      cases hc
      exact .inr (.inr (.inl ⟨hx', hq, rfl⟩))
    · rw [not_or] at hq
      rw [serviceEdge_edge (enterDispatch_snap s) (by rw [enterDispatch_len]; exact hq.1)
        (by rw [enterDispatch_prevConfirm]; exact hq.2)] at hc
      rcases commit_next hc with h1 | ⟨f, -, rfl⟩
      · cases hr : runTransfer (switchSel s.sw) true { enterDispatch s with prevConfirm := confirmBit s.sw } with
        | error f => rw [hr] at h1; cases h1
        | ok u =>
          rw [hr, thenDo_ok] at h1
          cases h1
          exact .inr (.inr (.inr ⟨hx', hq.1, hq.2, u, rfl, rfl⟩))
      · exact .inl ⟨hx', hq.1, hq.2, f, rfl⟩

/-- ACK: enabled in ACK; the acknowledgment, the digits, IDLE. -/
theorem execAck_next {s t : State} (h : execAck s = .next t) :
    s.phase = .ack ∧ t = returnToIdle (digitUpdate (writeEdgeCapture (onesMask s.cfg.swWidth) s)) := by
  unfold execAck at h
  obtain ⟨hb, hc⟩ := blockEvent_next h
  cases hc
  exact ⟨of_decide_eq_true hb, rfl⟩

/-- P_READ_OUT: always a next state; the byte of OutBuffer, or a drawn one. -/
theorem execPReadOut_cases (off : BitVec 16) (s : State) :
    (∃ b, s.len = 0 ∧ s.outBuf.read off.toNat = some b ∧ execPReadOut off s = .next (answer (.outByte b) s)) ∨
    ((s.len ≠ 0 ∨ s.outBuf.read off.toNat = none) ∧ execPReadOut off s = .next (answerAnyByte s)) := by
  unfold execPReadOut producerOwns
  by_cases hl : s.len = 0
  · rw [decide_eq_true hl]
    cases hr : s.outBuf.read off.toNat with
    | none => exact .inr ⟨.inr rfl, rfl⟩
    | some b => exact .inl ⟨b, hl, rfl, rfl⟩
  · rw [decide_eq_false hl]
    exact .inr ⟨.inl hl, rfl⟩

/-- The producer's writes: enabled while the length register is zero. -/
theorem execPWriteIn_next {off : BitVec 16} {b : Byte} {s t : State} (h : execPWriteIn off b s = .next t) :
    s.len = 0 ∧ t = { s with inBuf := s.inBuf.write off.toNat b } := by
  unfold execPWriteIn at h
  obtain ⟨hb, hc⟩ := producerEvent_next h
  cases hc
  exact ⟨of_decide_eq_true hb, rfl⟩

theorem execPWriteLen_next {v : Word32} {s t : State} (h : execPWriteLen v s = .next t) :
    s.len = 0 ∧ t = { s with len := v } := by
  unfold execPWriteLen at h
  obtain ⟨hb, hc⟩ := producerEvent_next h
  cases hc
  exact ⟨of_decide_eq_true hb, rfl⟩

end Sys2Proof.Machine
end

