-- ==== Sys2Proof/Laws/PerInstr.lean ====
section
/-! SUPPORT. One lemma per instruction: its encoding carries the code of its row of spec/opcode_table.json, or the selector
of its row (30_encoding.md R74, R84). -/

namespace Sys2Proof.Laws.EncodeRow

/-- The event code of an instruction's row (30_encoding.md R74); a selector row has none. -/
def rowCode : Instr → Option Nat
  | .reset => some 0x01
  | .boot => some 0x02
  | .dispatchTimer => some 0x03
  | .dispatchSwitch => some 0x03
  | .ack => some 0x04
  | .runTransfer _ => some 0x05
  | .apply _ _ => some 0x06
  | .render _ => some 0x07
  | .swSet _ => some 0x10
  | .timerExpire => some 0x11
  | .pWriteIn _ _ => some 0x20
  | .pWriteLen _ => some 0x21
  | .pReadLen => some 0x22
  | .pReadOut _ => some 0x23
  | .tIdent _ | .tInvert _ | .tBrighten _ | .tDarken _ | .tUnsupported _ _ => none

/-- The transform of a selector row (30_encoding.md R66, R84). -/
def rowTransform : Instr → Option Transform
  | .tIdent _ => some .ident
  | .tInvert _ => some .invert
  | .tBrighten _ => some .brighten
  | .tDarken _ => some .darken
  | .tUnsupported _ _ => some .unsupported
  | _ => none

/-- The encoding of `i` is a word with the code of its row, or a selector of its row. -/
def Statement (i : Instr) : Prop :=
  ∀ swWidth, i.wf swWidth = true →
    match encode i with
    | .event w => rowCode i = some (eventCode w)
    | .lane sel _ => rowTransform i = some (selectTransform sel)

theorem reset : Statement .reset := fun _ _ => rfl
theorem boot : Statement .boot := fun _ _ => rfl
theorem dispatchTimer : Statement .dispatchTimer := fun _ _ => rfl
theorem dispatchSwitch : Statement .dispatchSwitch := fun _ _ => rfl
theorem ack : Statement .ack := fun _ _ => rfl
theorem runTransfer (render : Bool) : Statement (.runTransfer render) := fun _ _ => by cases render <;> rfl
theorem apply (len : BitVec 17) (sel : Word32) : Statement (.apply len sel) := fun _ _ => by
  simp only [encode, rowCode]
  rw [eventCode_eventWord (by omega) (by omega)]
theorem render (len : BitVec 17) : Statement (.render len) := fun _ _ => by
  simp only [encode, rowCode]
  rw [eventCode_eventWord (by omega) (by omega)]
theorem swSet (value : Word32) : Statement (.swSet value) := fun _ _ => by
  simp only [encode, rowCode]
  rw [eventCode_eventWord (by omega) (by omega)]
theorem timerExpire : Statement .timerExpire := fun _ _ => rfl
theorem pWriteIn (off : BitVec 16) (byte : Byte) : Statement (.pWriteIn off byte) := fun _ _ => by
  simp only [encode, rowCode]
  rw [eventCode_eventWord (by omega) (by omega)]
theorem pWriteLen (value : Word32) : Statement (.pWriteLen value) := fun _ _ => by
  simp only [encode, rowCode]
  rw [eventCode_eventWord (by omega) (by omega)]
theorem pReadLen : Statement .pReadLen := fun _ _ => rfl
theorem pReadOut (off : BitVec 16) : Statement (.pReadOut off) := fun _ _ => by
  simp only [encode, rowCode]
  rw [eventCode_eventWord (by omega) (by omega)]
theorem tIdent (v : Byte) : Statement (.tIdent v) := fun _ _ => rfl
theorem tInvert (v : Byte) : Statement (.tInvert v) := fun _ _ => rfl
theorem tBrighten (v : Byte) : Statement (.tBrighten v) := fun _ _ => rfl
theorem tDarken (v : Byte) : Statement (.tDarken v) := fun _ _ => rfl
theorem tUnsupported (sel : Word32) (v : Byte) : Statement (.tUnsupported sel v) := fun _ h => by
  have h4 : 4 ≤ sel.toNat := by simpa [Instr.wf] using h
  simp only [encode, rowTransform, selectTransform_unsupported h4]

end Sys2Proof.Laws.EncodeRow
end

