-- ==== Sys2Proof/Machine/RegisterMap.lean ====
section
/-! DEFINITION. The register map of 10_state.md R41 as data: addresses, widths and access rights, and the byte view of the
length register (20_memory.md R48). No rule of the step reads an address (00_scope.md R16, 20_memory.md R45). -/

namespace Sys2Proof.Machine

/-- The rows of the register map (R41). -/
inductive Reg where
  | swData
  | swIrqMask
  | swEdgeCap
  | timerStatus
  | timerControl
  | timerPeriod
  | digitBank (i : Fin 6)
  | length
  | inByte (off : Fin 65536)
  | outByte (off : Fin 65536)
  | surfaceByte (off : Fin 76800)
  deriving DecidableEq, Repr

/-- How an agent may reach a register (the columns B and P of R41). -/
inductive Right where
  | none
  | readOnly
  | writeOnly
  /-- Read through the pending condition, write-one-to-clear. -/
  | writeOneToClear
  /-- Read, and a write that clears. -/
  | readAndClear
  /-- Read, and a write only while the length register is 0 (R60). -/
  | readAndWriteWhenFree
  /-- A write only while the length register is 0 (R60). -/
  | writeWhenFree
  deriving DecidableEq, Repr

/-- The address of a register; the values, offsets and stride are OPEN parameters (R16, R41). -/
def regAddress (a : Config.Addresses) : Reg → Nat
  | .swData => a.sw
  | .swIrqMask => a.irqMask
  | .swEdgeCap => a.edgeCap
  | .timerStatus => a.timer
  | .timerControl => a.timer + a.timerControlOffset
  | .timerPeriod => a.timer + a.timerPeriodOffset
  | .digitBank i => a.disp + i.val * a.dispStride
  | .length => a.len
  | .inByte off => a.inBuf + off.val
  | .outByte off => a.outBuf + off.val
  | .surfaceByte off => a.fb + off.val

/-- The width of a register in bits, where the spec gives one: that of the period register and of a digit bank is not given. -/
def regBits (swWidth : Nat) : Reg → Option Nat
  | .swData | .swIrqMask | .swEdgeCap => some swWidth
  | .timerStatus | .timerControl => some 1
  | .timerPeriod | .digitBank _ => Option.none
  | .length => some Config.lenBits
  | .inByte _ | .outByte _ | .surfaceByte _ => some 8

/-- What the block may do (R41, column B). -/
def blockRight : Reg → Right
  | .swData | .swIrqMask | .timerControl | .inByte _ => .readOnly
  | .swEdgeCap => .writeOneToClear
  | .timerStatus | .length => .readAndClear
  | .timerPeriod | .digitBank _ | .outByte _ | .surfaceByte _ => .writeOnly

/-- What the producer may do (R41, column P). -/
def producerRight : Reg → Right
  | .length => .readAndWriteWhenFree
  | .inByte _ => .writeWhenFree
  | .outByte _ => .readOnly
  | .swData | .swIrqMask | .swEdgeCap | .timerStatus | .timerControl | .timerPeriod | .digitBank _ | .surfaceByte _ => .none

/-- What a register holds, as a number; nothing where a byte is undef. The mask, control and period registers hold their
parameter values for the whole run (R41). -/
def regValue (s : State) : Reg → Option Nat
  | .swData => some s.sw.toNat
  | .swIrqMask => some s.cfg.swIrqMask.toNat
  | .swEdgeCap => some s.edgecap.toNat
  | .timerStatus => some s.timerTo.toNat
  | .timerControl => some s.cfg.timerIrqEn.toNat
  | .timerPeriod => some s.timerPeriod
  | .digitBank i => some (digitCode s.disp[i])
  | .length => some s.len.toNat
  | .inByte off => (s.inBuf.read off.val).map BitVec.toNat
  | .outByte off => (s.outBuf.read off.val).map BitVec.toNat
  | .surfaceByte off => (s.fb.read off.val).map BitVec.toNat

/-- The byte at `ADDR_LEN + k` (20_memory.md R48). -/
def lengthByte (s : State) (k : Fin 4) : Byte := lenByte s.len k

end Sys2Proof.Machine
end

