-- ==== Sys2Proof/Tests/Slice0.lean ====
section
/-! SUPPORT. The model's own tests, their expected values from the vectors of 95_test_vectors.md and the worked examples of the
rules, and for every statement that has hypotheses a witness that meets them. -/

open Sys2Proof Sys2Proof.Machine

namespace Sys2Proof.Tests

/-! ### WellFormed: an ill-formed term for each check -/

theorem test_wf_apply_len : Instr.wf 4 (.apply 65537 1) = false ∧ Instr.wf 4 (.apply 65536 1) = true := by decide
theorem test_wf_render_len : Instr.wf 4 (.render 65537) = false ∧ Instr.wf 4 (.render 65536) = true := by decide
theorem test_wf_swSet_value : Instr.wf 4 (.swSet 16) = false ∧ Instr.wf 4 (.swSet 15) = true ∧ Instr.wf 5 (.swSet 16) = true := by
  decide
theorem test_wf_tUnsupported_sel : Instr.wf 4 (.tUnsupported 3 0) = false ∧ Instr.wf 4 (.tUnsupported 4 0) = true := by decide

/-! ### Decode: the words of 95_test_vectors.md 2.14, one or more per constructor, and words that are refused -/

theorem test_decode_reset : decodeEvent 4 0x0100000000000000 = .ok .reset := by decide
theorem test_decode_boot : decodeEvent 4 0x0200000000000000 = .ok .boot := by decide
theorem test_decode_dispatchTimer : decodeEvent 4 0x0300000000000000 = .ok .dispatchTimer := by decide
theorem test_decode_dispatchSwitch : decodeEvent 4 0x0300000000000001 = .ok .dispatchSwitch := by decide
theorem test_decode_ack : decodeEvent 4 0x0400000000000000 = .ok .ack := by decide
theorem test_decode_runTransfer : decodeEvent 4 0x0500000000000000 = .ok (.runTransfer false) ∧
    decodeEvent 4 0x0500000000000001 = .ok (.runTransfer true) := by decide
theorem test_decode_apply : decodeEvent 4 0x0600000002000004 = .ok (.apply 4 2) ∧
    decodeEvent 4 0x0600000007010000 = .ok (.apply 65536 7) := by decide
theorem test_decode_apply_sel_high_bit : decodeEvent 4 0x0680000000000001 = .ok (.apply 1 0x80000000) := by decide
theorem test_decode_render : decodeEvent 4 0x0700000000010000 = .ok (.render 65536) := by decide
theorem test_decode_swSet : decodeEvent 4 0x100000000000000F = .ok (.swSet 0b1111) ∧
    decodeEvent 32 0x10000000FFFFFFFF = .ok (.swSet 0xFFFFFFFF) := by decide
theorem test_decode_timerExpire : decodeEvent 4 0x1100000000000000 = .ok .timerExpire := by decide
theorem test_decode_pWriteIn : decodeEvent 4 0x2000FFFF000000AB = .ok (.pWriteIn 65535 0xAB) ∧
    decodeEvent 4 0x20000003000000EF = .ok (.pWriteIn 3 0xEF) := by decide
theorem test_decode_pWriteLen : decodeEvent 4 0x2100000000011170 = .ok (.pWriteLen 70000) ∧
    decodeEvent 4 0x21000000FFFFFFFF = .ok (.pWriteLen 0xFFFFFFFF) := by decide
theorem test_decode_pReadLen : decodeEvent 4 0x2200000000000000 = .ok .pReadLen := by decide
theorem test_decode_pReadOut : decodeEvent 4 0x2300FFFF00000000 = .ok (.pReadOut 65535) := by decide
theorem test_decode_selector_rows : decode 4 (.lane 0 0x7A) = .ok (.tIdent 0x7A) ∧ decode 4 (.lane 1 0x5A) = .ok (.tInvert 0x5A) ∧
    decode 4 (.lane 2 210) = .ok (.tBrighten 210) ∧ decode 4 (.lane 3 100) = .ok (.tDarken 100) ∧
    decode 4 (.lane 4 0x33) = .ok (.tUnsupported 4 0x33) ∧
    decode 4 (.lane 0xFFFFFFFF 0) = .ok (.tUnsupported 0xFFFFFFFF 0) := by decide
theorem test_refuse_codes : decodeEvent 4 0 = .error .unknownCode ∧ decodeEvent 4 0x0800000000000000 = .error .unknownCode ∧
    decodeEvent 4 0x1200000000000000 = .error .unknownCode ∧ decodeEvent 4 0x2400000000000000 = .error .unknownCode ∧
    decodeEvent 4 0xFF00000000000000 = .error .unknownCode := by decide
theorem test_refuse_reserved_block : decodeEvent 4 0x0300000000000100 = .error .reservedBit ∧
    decodeEvent 4 0x0400000000000001 = .error .reservedBit ∧ decodeEvent 4 0x0500000000000002 = .error .reservedBit ∧
    decodeEvent 4 0x0600000000020000 = .error .reservedBit ∧ decodeEvent 4 0x070000000FFFFFFF = .error .reservedBit := by decide
theorem test_refuse_reserved_producer : decodeEvent 4 0x2000000000000100 = .error .reservedBit ∧
    decodeEvent 4 0x2001000000000000 = .error .reservedBit ∧ decodeEvent 4 0x2100000100000000 = .error .reservedBit ∧
    decodeEvent 4 0x2300000000000001 = .error .reservedBit := by decide
theorem test_refuse_constraint : decodeEvent 4 0x0300000000000002 = .error .fieldConstraint ∧
    decodeEvent 4 0x0300000000000003 = .error .fieldConstraint ∧ decodeEvent 4 0x0600000000010001 = .error .fieldConstraint ∧
    decodeEvent 4 0x0700000000010001 = .error .fieldConstraint ∧ decodeEvent 4 0x1000000000000010 = .error .fieldConstraint := by
  decide

/-- The words of program P3 and of R82 assemble from their text. -/
theorem test_assemble : assembleLine "pwrite_in 3, 0xEF ; a byte".toList = some [.pWriteIn 3 0xEF] ∧
    assembleLine "sw 0b1110".toList = some [.swSet 0b1110] ∧ assembleLine "dispatch switch".toList = some [.dispatchSwitch] ∧
    assembleLine "run_transfer norender".toList = some [.runTransfer false] ∧ assembleLine "apply 4, 2".toList = some [.apply 4 2] ∧
    assembleLine "dispatch both".toList = none := by decide
theorem test_assemble_pseudo : assembleLine "produce 1, 0xFF".toList = some [.pWriteIn 0 1, .pWriteIn 1 0xFF, .pWriteLen 2] ∧
    assembleLine "service".toList = some [.dispatchSwitch, .ack] ∧
    assembleLine "tick".toList = some [.timerExpire, .dispatchTimer] := by decide

/-! ### One step on small states -/

/-- A region that holds `bs` from offset 0. -/
def bytes (bs : List Byte) : Memory := cellsFrom 0 bs

/-- The block in IDLE with interrupts on. -/
def idle : State := { State.reset with phase := .idle, gie := true }

/-- The start of the rows of 95_test_vectors.md 2.6 and 2.8, with the length pending. -/
def pending (sw : Word32) : State :=
  { idle with edgecap := 0b0010, sw := sw, len := 4, inBuf := bytes [0x00, 0xFF, 0x10, 0xEF] }

/-- What holds of the next state, if there is one. -/
def after (r : Result) (p : State → Bool) : Bool :=
  match r with
  | .next t => p t
  | _ => false

/-- It is that state, whole. -/
def is (r : Result) (t : State) : Bool := after r (fun u => u = t)

/-- It is no step, for that reason. -/
def stops (r : Result) (f : Fault) : Bool :=
  match r with
  | .fault g => g = f
  | _ => false

/-- The first `n` bytes of a region, when all of them hold values. -/
def firstBytes (n : Nat) (m : Memory) : List Byte :=
  match m.readPrefix n with
  | .ok bs => bs
  | .error _ => []

/-- The banks from bank 5 down to bank 0, as their numbers of R70. -/
def shown (s : State) : List Nat := s.disp.toList.reverse.map digitCode

/-- RESET from FAULT (2.13, F6): BOOT, the length and the fault record as they were. -/
theorem test_reset_from_fault : after (exec .reset { pending 0 with phase := .fault, fault := some (.geometry 241) })
    (fun t => t.phase = .boot ∧ t.gie = false ∧ t.len = 4 ∧ t.fault = some (.geometry 241) ∧ t.edgecap.toNat < 16) = true := by
  have h : ∀ x : Word32, (x &&& onesMask 4).toNat < 16 := and_onesMask_lt 4
  exact decide_eq_true ⟨rfl, rfl, rfl, rfl, h _⟩

/-- R37: the run's first fault stays recorded when a later event of the run, after a RESET, faults. -/
theorem test_raiseFault_keeps_first :
    (raiseFault (.undefRead .inBuf 0) { State.reset with fault := some (.geometry 256) }).fault = some (.geometry 256) ∧
    (raiseFault (.undefRead .inBuf 0) State.reset).fault = some (.undefRead .inBuf 0) := by decide

/-- B1 of 2.7. -/
theorem test_boot_idle : is (exec .boot { State.reset with sw := 0b0111 })
    { State.reset with sw := 0b0111, snap := 0b0111, gie := true, phase := .idle } = true := by decide
/-- B2 of 2.7. -/
theorem test_boot_transfer : after (exec .boot { State.reset with sw := 0b1000, len := 4, inBuf := bytes [1, 2, 3, 4] })
    (fun t => firstBytes 4 t.outBuf = [51, 52, 53, 54] ∧ t.len = 0 ∧ t.gie = true ∧ t.phase = .idle ∧ t.fb = []) = true := by
  decide
/-- T1 of 2.10. -/
theorem test_dispatchTimer_tenth : after (exec .dispatchTimer { idle with
      timerTo := true, timeoutCount := 9, counter := 59, sw := 0b0100 })
    (fun t => t.timerTo = false ∧ t.timeoutCount = 10 ∧ t.counter = 60 ∧ t.trace = [.todTick] ∧ shown t = [0, 1, 0, 1, 0, 0] ∧
      t.phase = .idle) = true := by decide
/-- The wrap row of 2.10. -/
theorem test_dispatchTimer_wrap : after (exec .dispatchTimer { idle with
      timerTo := true, timeoutCount := 4294967295, counter := 5 })
    (fun t => t.timeoutCount = 0 ∧ t.counter = 6 ∧ t.trace = [.todTick]) = true := by decide
/-- E3 of 2.8: a 1-to-0 change transfers. -/
theorem test_dispatchSwitch_falling : after (exec .dispatchSwitch { pending 0b0100 with prevConfirm := true })
    (fun t => firstBytes 4 t.outBuf = [0xFF, 0x00, 0xEF, 0x10] ∧ t.len = 0 ∧ t.prevConfirm = false ∧ t.phase = .ack) = true := by
  decide
/-- E7 of 2.8: the timer is serviced before the exit bail-out. -/
theorem test_dispatchSwitch_exit : after (exec .dispatchSwitch { pending 0b0111 with timerTo := true })
    (fun t => t.timerTo = false ∧ t.timeoutCount = 1 ∧ t.prevConfirm = false ∧ t.len = 4 ∧ t.edgecap = 0b0010 ∧
      t.phase = .idle) = true := by decide
/-- A2 of 2.9: the digits show the snapshot, the late capture is lost. -/
theorem test_ack : after (exec .ack { pending 0b0111 with phase := .ack, snap := 0b0110, edgecap := 0b0011 })
    (fun t => t.edgecap = 0 ∧ shown t = [0, 1, 0, 0, 0, 0] ∧ t.phase = .idle) = true := by decide
/-- H5 of 2.6: a length that is no square. -/
theorem test_runTransfer_nonSquare : after (exec (.runTransfer true) { pending 0b0100 with len := 3, inBuf := bytes [1, 2, 3] })
    (fun t => firstBytes 3 t.outBuf = [254, 253, 252] ∧ t.trace = [.sizingError] ∧ t.fb = [] ∧ t.len = 0) = true := by decide
/-- H4 of 2.6, F3 of 2.15: nothing but the fault is written. -/
theorem test_runTransfer_undef : is (exec (.runTransfer true) { pending 0b0100 with len := 5 })
    { pending 0b0100 with len := 5, phase := .fault, fault := some (.undefRead .inBuf 4) } = true := by decide
/-- The first row of 2.2: byte 4 untouched. -/
theorem test_apply_invert : after (exec (.apply 4 1) { idle with localBuf := bytes [0x00, 0xFF, 0x10, 0xEF, 0x99] })
    (fun t => firstBytes 5 t.localBuf = [0xFF, 0x00, 0xEF, 0x10, 0x99]) = true := by decide
/-- F4 of 2.15. -/
theorem test_apply_undef : is (exec (.apply 4 1) idle)
    { idle with phase := .fault, fault := some (.undefRead .localBuf 0) } = true := by decide
/-- C4 of 2.5. -/
theorem test_render_nonSquare : is (exec (.render 2) idle) { idle with trace := [.sizingError] } = true := by decide
/-- Pixels of C1 of 2.5: the top row of the image and its neighbours. -/
theorem test_render_pixels :
    (let img : Array Byte := #[0, 32, 64, 96, 128, 160, 192, 224, 255]
     [pixelByte 3 img 157 118, pixelByte 3 img 158 118, pixelByte 3 img 160 118, pixelByte 3 img 161 118,
      pixelByte 3 img 158 119, pixelByte 3 img 159 119, pixelByte 3 img 160 120, pixelByte 3 img 159 121]) =
      [0x00, 0x00, 0x24, 0x00, 0x49, 0x6D, 0xFF, 0x00] := by decide
/-- Rows 1 and 2 of 2.11. -/
theorem test_swSet : after (exec (.swSet 0b0110) { idle with sw := 0b0100 }) (fun t => t.sw = 0b0110 ∧ t.edgecap = 0b0010) = true ∧
    after (exec (.swSet 0b0100) { idle with sw := 0b0110, edgecap := 0b0010 }) (fun t => t.edgecap = 0b0010) = true := by decide
/-- Rows 5 and 6 of 2.11. -/
theorem test_timerExpire : after (exec .timerExpire idle) (fun t => t.timerTo) = true ∧
    is (exec .timerExpire { idle with timerTo := true }) { idle with timerTo := true } = true := by decide
/-- Rows 1 and 2 of 2.12; the second byte written stands. -/
theorem test_pWriteIn : after (exec (.pWriteIn 2 0x10) { idle with inBuf := bytes [1, 2, 3] })
      (fun t => firstBytes 3 t.inBuf = [1, 2, 0x10]) = true ∧
    stops (exec (.pWriteIn 2 0x10) (pending 0)) (.producerNotEnabled "P_WRITE_IN") = true := by decide
/-- Rows 3 and 4 of 2.12. -/
theorem test_pWriteLen : is (exec (.pWriteLen 4) idle) { idle with len := 4 } = true ∧
    stops (exec (.pWriteLen 8) (pending 0)) (.producerNotEnabled "P_WRITE_LEN") = true := by decide
/-- Row 6 of 2.12. -/
theorem test_pReadLen : after (exec .pReadLen { idle with len := 70000 }) (fun t => t.returned = .len 70000) = true := by decide
/-- Row 7 of 2.12. -/
theorem test_pReadOut : after (exec (.pReadOut 2) { idle with outBuf := bytes [0xFF, 0x00, 0xEF] })
    (fun t => t.returned = .outByte 0xEF) = true := by decide
/-- The rows of 2.1, at their boundaries. -/
theorem test_tIdent : is (exec (.tIdent 0x7A) idle) { idle with returned := .laneByte 0x7A } = true := by decide
theorem test_tInvert : is (exec (.tInvert 0x5A) idle) { idle with returned := .laneByte 0xA5 } = true := by decide
theorem test_tBrighten : is (exec (.tBrighten 204) idle) { idle with returned := .laneByte 254 } = true ∧
    is (exec (.tBrighten 206) idle) { idle with returned := .laneByte 255 } = true := by decide
theorem test_tDarken : is (exec (.tDarken 49) idle) { idle with returned := .laneByte 0 } = true ∧
    is (exec (.tDarken 51) idle) { idle with returned := .laneByte 1 } = true := by decide
theorem test_tUnsupported : is (exec (.tUnsupported 7 0x33) idle) { idle with returned := .laneByte 0x33 } = true := by decide

/-! ### Shared operations -/

/-- Rows of 2.3. -/
theorem test_isqrt : isqrtExact 0 = some 0 ∧ isqrtExact 5 = none ∧ isqrtExact 255 = none ∧ isqrtExact 256 = some 16 := by decide
theorem test_center : (centerX 0, centerY 0) = (160, 120) ∧ (centerX 3, centerY 3) = (158, 118) ∧
    (centerX 240, centerY 240) = (40, 0) := by decide
/-- The thresholds of 2.4. -/
theorem test_gray : [0, 36, 37, 72, 73, 84, 85, 109, 110, 145, 146, 169, 170, 182, 183, 218, 219, 254, 255].map grayTo332 =
    [0x00, 0x00, 0x24, 0x24, 0x48, 0x48, 0x49, 0x49, 0x6D, 0x6D, 0x91, 0x91, 0x92, 0x92, 0xB6, 0xB6, 0xDA, 0xDA, 0xFF] := by
  decide
/-- Rows of 2.9, the banks listed from bank 0 up. -/
theorem test_digits : (digitBanks 99 12 61).toList.map digitCode = [1, 0, 1, 0, 2, 1] ∧
    (digitBanks 3 4 60).toList.map digitCode = [0, 0, 1, 0, 10, 10] ∧
    (digitBanks 3 0 4294967295).toList.map digitCode = [5, 1, 8, 8, 0, 0] ∧
    (digitBanks 0 1 0).toList.map digitCode = [0, 0, 0, 0, 10, 10] := by decide
/-- The little-endian bytes of 70000 = 0x00011170 (20_memory.md R48). -/
theorem test_lengthByte : lenByte 70000 0 = 0x70 ∧ lenByte 70000 1 = 0x11 ∧ lenByte 70000 2 = 0x01 ∧ lenByte 70000 3 = 0 := by
  decide

/-! ### The step -/

/-- The first event after reset runs: BOOT, on its word of the table. -/
theorem test_first_step : decodeTableWord 64 0x0200000000000000 = some .boot ∧
    is (step (State.reset.withFetchWord 64 0x0200000000000000)) { State.reset with gie := true, phase := .idle } = true := by decide
/-- A selector row and its operand byte (log 24). -/
theorem test_first_step_lane : decodeTableWord 32 1 = some (.tInvert 0) ∧
    is (step (State.reset.withFetchWord 32 1)) { State.reset with returned := .laneByte 0xFF } = true := by decide
/-- The all-zero word is refused: the mark and nothing else (30_encoding.md R79). -/
theorem test_refused_word : is (step (State.reset.withFetchWord 64 0)) { State.reset with refused := true } = true := by decide

/-! ### Witnesses: for each statement with hypotheses, a state and operands that meet them, at the boundaries of its clauses -/

theorem bytes_wf (bs : List Byte) : (bytes bs).wf := cellsFrom_wf bs 0

theorem bytes_read (bs : List Byte) (x : Nat) : (bytes bs).read x = bs[x]? := by
  have h := read_cellsFrom_append bs 0 x [] (Nat.zero_le x)
  rw [List.append_nil] at h
  rw [bytes, h]
  by_cases hx : x < bs.length
  · simp [hx]
  · simp [hx, Memory.read]

theorem bytes_defined {n : Nat} {bs : List Byte} (h : n ≤ bs.length) : definedBelow n (bytes bs) := by
  intro i hi
  exact ⟨bs[i], by rw [bytes_read, List.getElem?_eq_getElem]⟩

/-- A region defined below `i` only has its least undef offset there. -/
theorem bytes_leastUndef {n i : Nat} {bs : List Byte} (hl : bs.length = i) (h : i < n) : leastUndef n i (bytes bs) :=
  ⟨h, by rw [bytes_read, List.getElem?_eq_none (by omega)], bytes_defined (by omega)⟩

/-- `n` bytes of 7, from offset 0. -/
def sevens (n : Nat) : Memory := bytes (List.replicate n 7)

theorem sevens_defined {k n : Nat} (h : k ≤ n) : definedBelow k (sevens n) := bytes_defined (by simpa using h)

theorem sevens_leastUndef {n i : Nat} (h : i < n) : leastUndef n i (sevens i) := bytes_leastUndef (by simp) h

theorem two_nonSquare : ∀ i : Nat, i * i ≠ 2 := by
  intro i h
  rcases Nat.lt_or_ge i 2 with h2 | h2
  · interval_cases i <;> omega
  · have := Nat.mul_le_mul h2 h2
    omega

/-- A length just above 240 * 240. -/
theorem above_nonSquare : ∀ i : Nat, i * i ≠ 57601 := by
  intro i h
  rcases Nat.lt_or_ge i 241 with h2 | h2
  · have := Nat.mul_le_mul (Nat.le_of_lt_succ h2) (Nat.le_of_lt_succ h2)
    omega
  · have := Nat.mul_le_mul h2 h2
    omega

/-- A next state that a check accepts exists. -/
theorem exists_of_after {r : Result} {p : State → Bool} (h : after r p = true) : ∃ t, r = .next t ∧ p t = true := by
  cases r with
  | next t => exact ⟨t, rfl, h⟩
  | fault f => cases h
  | refused f => cases h

/-- The state after a list of events that a check accepts exists. -/
theorem exists_of_run {is : List Instr} {s : State} {p : State → Bool}
    (h : (match runEvents is s with | some t => p t | none => false) = true) : ∃ t, runEvents is s = some t ∧ p t = true := by
  cases hr : runEvents is s with
  | none => rw [hr] at h; cases h
  | some t => rw [hr] at h; exact ⟨t, rfl, h⟩

theorem inv_of_regions {s : State} (h1 : s.cfg = Config.launchParams) (h2 : s.sw.toNat < 16) (h3 : s.snap.toNat < 16)
    (h4 : s.edgecap.toNat < 16) (h5 : s.timerPeriod = 0) (h6 : s.inBuf = [] ∧ s.outBuf = [] ∧ s.localBuf = [] ∧ s.fb = [])
    (h7 : s.phase = .idle ∨ s.phase = .ack) (h8 : s.gie = true) (h9 : exitBit s.snap = false) : s.Inv := by
  obtain ⟨e1, e2, e3, e4⟩ := h6
  have hnil : ∀ n, Memory.ok n [] := fun n => ⟨List.Pairwise.nil, fun c hc => by cases hc⟩
  have hp : s.phase ≠ .boot ∧ s.phase ≠ .fault := by
    rcases h7 with h | h <;> rw [h] <;> decide
  exact ⟨by rw [h1]; decide, by rw [h1]; exact h2, by rw [h1]; exact h3, by rw [h1]; exact h4, by rw [h1]; exact h5,
    e1 ▸ hnil _, e2 ▸ hnil _, e3 ▸ hnil _, e4 ▸ hnil _, fun h => absurd h hp.1, fun _ => h8, fun h => absurd h hp.2, fun _ => h9⟩

theorem witness_OnlyBootOrResetStartsARun : State.reset.phase = .boot ∧ (∃ t, exec .boot State.reset = .next t) ∧
    (∃ t, exec .reset State.reset = .next t) ∧ Instr.agent .boot = .block ∧ Instr.agent .reset = .block :=
  ⟨rfl, ⟨_, rfl⟩, ⟨_, rfl⟩, rfl, rfl⟩

theorem witness_SelectorChoosesItsByteFunction : (0 : Word32).toNat = 0 ∧ (1 : Word32).toNat = 1 ∧ (2 : Word32).toNat = 2 ∧
    (3 : Word32).toNat = 3 ∧ 4 ≤ (4 : Word32).toNat ∧ 4 ≤ (0xFFFFFFFF : Word32).toNat := by decide

/-- APPLY over no byte, four bytes and the whole buffer; also the hypotheses of ApplyInvertTwiceRestores. -/
theorem witness_ApplyMapsBytesInPlace : (∃ s : State, s.phase = .idle ∧ s.localBuf.wf ∧ definedBelow (0 : BitVec 17).toNat s.localBuf) ∧
    (∃ s : State, s.phase = .idle ∧ s.localBuf.wf ∧ definedBelow (4 : BitVec 17).toNat s.localBuf) ∧
    (∃ s : State, s.phase = .idle ∧ s.localBuf.wf ∧ definedBelow (65536 : BitVec 17).toNat s.localBuf) :=
  ⟨⟨idle, rfl, List.Pairwise.nil, fun i hi => absurd hi (Nat.not_lt_zero i)⟩,
    ⟨{ idle with localBuf := sevens 4 }, rfl, bytes_wf _, sevens_defined (by decide)⟩,
    ⟨{ idle with localBuf := sevens 65536 }, rfl, bytes_wf _, sevens_defined (by decide)⟩⟩

theorem witness_ApplyInvertTwiceRestores :
    ∃ s : State, s.phase = .idle ∧ s.localBuf.wf ∧ definedBelow (65536 : BitVec 17).toNat s.localBuf :=
  witness_ApplyMapsBytesInPlace.2.2

theorem witness_ApplyFaultsOnUndef : (∃ s : State, s.phase = .idle ∧ s.localBuf.wf ∧ leastUndef (1 : BitVec 17).toNat 0 s.localBuf) ∧
    (∃ s : State, s.phase = .idle ∧ s.localBuf.wf ∧ leastUndef (65536 : BitVec 17).toNat 65535 s.localBuf) :=
  ⟨⟨{ idle with localBuf := sevens 0 }, rfl, bytes_wf _, sevens_leastUndef (by decide)⟩,
    ⟨{ idle with localBuf := sevens 65535 }, rfl, bytes_wf _, sevens_leastUndef (by decide)⟩⟩

theorem witness_TransformLaws : (0 : Byte).toNat ≤ (0 : Byte).toNat ∧ (0 : Byte).toNat ≤ (255 : Byte).toNat := by decide

/-- Sides 0, 1 and 240. -/
theorem witness_RenderDrawsTheWholeFrame :
    (∃ s : State, s.phase = .idle ∧ s.localBuf.wf ∧ 0 * 0 = (0 : BitVec 17).toNat ∧ definedBelow (0 : BitVec 17).toNat s.localBuf) ∧
    (∃ s : State, s.phase = .idle ∧ s.localBuf.wf ∧ 1 * 1 = (1 : BitVec 17).toNat ∧ definedBelow (1 : BitVec 17).toNat s.localBuf) ∧
    (∃ s : State, s.phase = .idle ∧ s.localBuf.wf ∧ 240 * 240 = (57600 : BitVec 17).toNat ∧
      definedBelow (57600 : BitVec 17).toNat s.localBuf) :=
  ⟨⟨{ idle with localBuf := sevens 0 }, rfl, bytes_wf _, by decide, sevens_defined (by decide)⟩,
    ⟨{ idle with localBuf := sevens 1 }, rfl, bytes_wf _, by decide, sevens_defined (by decide)⟩,
    ⟨{ idle with localBuf := sevens 57600 }, rfl, bytes_wf _, by decide, sevens_defined (by decide)⟩⟩

theorem witness_RenderReportsNonSquare : isqrtExact 2 = none ∧ idle.phase = .idle ∧ (∀ i : Nat, i * i ≠ (2 : BitVec 17).toNat) ∧
    (∀ i : Nat, i * i ≠ (57601 : BitVec 17).toNat) :=
  ⟨by decide, rfl, two_nonSquare, above_nonSquare⟩

/-- Sides 241 and 256 for the geometry fault; the first and the last offset for the undef read. -/
theorem witness_RenderFaultsCommitNothing : (idle.phase = .idle ∧ 241 * 241 = (58081 : BitVec 17).toNat ∧ 240 < 241) ∧
    256 * 256 = (65536 : BitVec 17).toNat ∧
    (∃ s : State, s.phase = .idle ∧ s.localBuf.wf ∧ 1 * 1 = (1 : BitVec 17).toNat ∧ leastUndef (1 : BitVec 17).toNat 0 s.localBuf) ∧
    (∃ s : State, s.phase = .idle ∧ s.localBuf.wf ∧ 240 * 240 = (57600 : BitVec 17).toNat ∧
      leastUndef (57600 : BitVec 17).toNat 57599 s.localBuf) :=
  ⟨⟨rfl, by decide, by decide⟩, by decide,
    ⟨{ idle with localBuf := sevens 0 }, rfl, bytes_wf _, by decide, sevens_leastUndef (by decide)⟩,
    ⟨{ idle with localBuf := sevens 57599 }, rfl, bytes_wf _, by decide, sevens_leastUndef (by decide)⟩⟩

theorem witness_FrameHasSideSquaredForegroundPixels : 0 ≤ 240 ∧ 240 ≤ 240 := by decide

theorem witness_RunTransferAtZeroIsNoOp : idle.phase = .idle ∧ idle.len = 0 := ⟨rfl, rfl⟩

/-- A length with that many inbound bytes, in IDLE. -/
def loaded (len : Word32) (n : Nat) : State := { idle with len := len, inBuf := sevens n, edgecap := 0b0010 }

theorem loaded_ok {len : Word32} {n : Nat} (hl : len ≠ 0) (h : min len.toNat 65536 ≤ n) :
    (loaded len n).phase = .idle ∧ (loaded len n).len ≠ 0 ∧ (loaded len n).inBuf.wf ∧
      definedBelow (min (loaded len n).len.toNat 65536) (loaded len n).inBuf :=
  ⟨rfl, hl, bytes_wf _, sevens_defined h⟩

theorem loaded_undef {len : Word32} {n : Nat} (hl : len ≠ 0) (h : n < min len.toNat 65536) :
    (loaded len n).phase = .idle ∧ (loaded len n).len ≠ 0 ∧ (loaded len n).inBuf.wf ∧
      leastUndef (min (loaded len n).len.toNat 65536) n (loaded len n).inBuf :=
  ⟨rfl, hl, bytes_wf _, sevens_leastUndef h⟩

/-- Lengths 1, 65536 and one that is clamped. -/
theorem witness_RunTransferMovesBytesWithoutRender :
    (∃ s : State, s.phase = .idle ∧ s.len ≠ 0 ∧ s.inBuf.wf ∧ definedBelow (min s.len.toNat 65536) s.inBuf) ∧
    (∃ s : State, s.len = 65536 ∧ s.phase = .idle ∧ s.len ≠ 0 ∧ s.inBuf.wf ∧ definedBelow (min s.len.toNat 65536) s.inBuf) ∧
    (∃ s : State, s.len = 0xFFFFFFFF ∧ s.phase = .idle ∧ s.len ≠ 0 ∧ s.inBuf.wf ∧ definedBelow (min s.len.toNat 65536) s.inBuf) :=
  ⟨⟨loaded 1 1, loaded_ok (by decide) (by decide)⟩, ⟨loaded 65536 65536, rfl, loaded_ok (by decide) (by decide)⟩,
    ⟨loaded 0xFFFFFFFF 65536, rfl, loaded_ok (by decide) (by decide)⟩⟩

theorem witness_RunTransferRendersSquare :
    (∃ s : State, s.phase = .idle ∧ s.len ≠ 0 ∧ s.inBuf.wf ∧ definedBelow (min s.len.toNat 65536) s.inBuf ∧
      1 * 1 = min s.len.toNat 65536) ∧
    (∃ s : State, s.phase = .idle ∧ s.len ≠ 0 ∧ s.inBuf.wf ∧ definedBelow (min s.len.toNat 65536) s.inBuf ∧
      240 * 240 = min s.len.toNat 65536) := by
  have h1 := loaded_ok (len := 1) (n := 1) (by decide) (by decide)
  have h2 := loaded_ok (len := 57600) (n := 57600) (by decide) (by decide)
  exact ⟨⟨loaded 1 1, h1.1, h1.2.1, h1.2.2.1, h1.2.2.2, by decide⟩,
    ⟨loaded 57600 57600, h2.1, h2.2.1, h2.2.2.1, h2.2.2.2, by decide⟩⟩

theorem witness_RunTransferReportsNonSquare :
    ∃ s : State, s.phase = .idle ∧ s.len ≠ 0 ∧ s.inBuf.wf ∧ definedBelow (min s.len.toNat 65536) s.inBuf ∧
      ∀ i : Nat, i * i ≠ min s.len.toNat 65536 := by
  have h := loaded_ok (len := 2) (n := 2) (by decide) (by decide)
  exact ⟨loaded 2 2, h.1, h.2.1, h.2.2.1, h.2.2.2, two_nonSquare⟩

/-- The first inbound byte missing, the last of a clamped length missing; sides 241 and 256. -/
theorem witness_RunTransferFaultsCommitNothing :
    (∃ s : State, s.phase = .idle ∧ s.len ≠ 0 ∧ s.inBuf.wf ∧ leastUndef (min s.len.toNat 65536) 0 s.inBuf) ∧
    (∃ s : State, s.phase = .idle ∧ s.len ≠ 0 ∧ s.inBuf.wf ∧ leastUndef (min s.len.toNat 65536) 65535 s.inBuf) ∧
    (∃ s : State, (s.phase = .idle ∧ s.len ≠ 0 ∧ s.inBuf.wf ∧ definedBelow (min s.len.toNat 65536) s.inBuf) ∧
      241 * 241 = min s.len.toNat 65536) ∧
    (∃ s : State, (s.phase = .idle ∧ s.len ≠ 0 ∧ s.inBuf.wf ∧ definedBelow (min s.len.toNat 65536) s.inBuf) ∧
      256 * 256 = min s.len.toNat 65536) :=
  ⟨⟨loaded 1 0, loaded_undef (by decide) (by decide)⟩, ⟨loaded 70000 65535, loaded_undef (by decide) (by decide)⟩,
    ⟨loaded 58081 58081, loaded_ok (by decide) (by decide), by decide⟩,
    ⟨loaded 70000 65536, loaded_ok (by decide) (by decide), by decide⟩⟩

/-- A transfer that completes and one that faults. -/
theorem witness_RunTransferLeavesLengthZeroUnlessFault :
    (∃ t, runTransfer 0 true (pending 0) = .ok t) ∧ (∃ t, exec (.runTransfer true) (pending 0) = .next t ∧ t.phase = .idle) ∧
    ∃ t, exec (.runTransfer true) { pending 0 with len := 5 } = .next t ∧ t.phase = .fault := by
  refine ⟨⟨_, rfl⟩, ?_, ?_⟩
  · obtain ⟨t, h1, h2⟩ := exists_of_after (r := exec (.runTransfer true) (pending 0)) (p := fun t => t.phase = .idle) (by decide)
    exact ⟨t, h1, of_decide_eq_true h2⟩
  · obtain ⟨t, h1, h2⟩ := exists_of_after (r := exec (.runTransfer true) { pending 0 with len := 5 })
      (p := fun t => t.phase = .fault) (by decide)
    exact ⟨t, h1, of_decide_eq_true h2⟩

theorem witness_BootWithoutRequest : State.reset.phase = .boot ∧ State.reset.len = 0 := ⟨rfl, rfl⟩

theorem witness_BootServesThePendingRequest :
    ∃ s : State, s.phase = .boot ∧ s.len ≠ 0 ∧ s.inBuf.wf ∧ definedBelow (min s.len.toNat 65536) s.inBuf := by
  have h := loaded_ok (len := 70000) (n := 65536) (by decide) (by decide)
  exact ⟨{ loaded 70000 65536 with phase := .boot }, rfl, h.2.1, h.2.2.1, h.2.2.2⟩

theorem witness_BootFaultsOnUndef :
    ∃ s : State, s.phase = .boot ∧ s.len ≠ 0 ∧ s.inBuf.wf ∧ leastUndef (min s.len.toNat 65536) 0 s.inBuf := by
  have h := loaded_undef (len := 4) (n := 0) (by decide) (by decide)
  exact ⟨{ loaded 4 0 with phase := .boot }, rfl, h.2.1, h.2.2.1, h.2.2.2⟩

theorem witness_ProducerWritesOnlyWhileLengthIsZero : idle.len = 0 ∧ (loaded 1 1).len ≠ 0 ∧ (loaded 0xFFFFFFFF 0).len ≠ 0 := by
  decide

/-- A byte that holds a value, a pending length, an undef byte. -/
theorem witness_ProducerReadsHandBackValues :
    (∃ s : State, s.len = 0 ∧ s.outBuf.read (2 : BitVec 16).toNat = some 0xEF) ∧ (loaded 1 1).len ≠ 0 ∧
    (idle.len = 0 ∧ idle.outBuf.read (9 : BitVec 16).toNat = none) :=
  ⟨⟨{ idle with outBuf := bytes [0xFF, 0x00, 0xEF] }, rfl, rfl⟩, by decide, rfl, rfl⟩

theorem witness_ProduceFillsThenRequests : idle.len = 0 ∧ produce [7] = some [.pWriteIn 0 7, .pWriteLen 1] := ⟨rfl, rfl⟩

/-- The producer requests, polls, the block transfers, the producer reads zero. -/
theorem witness_CompletionSeenByProducer : ∃ (k : Word32) (is : List Instr) (s t0 t : State), k ≠ 0 ∧
    exec (.pWriteLen k) s = .next t0 ∧ runEvents is t0 = some t ∧ (∀ i ∈ is, ∀ v, i ≠ .pWriteLen v) ∧ t.len = 0 := by
  obtain ⟨t, h1, h2⟩ := exists_of_run (is := [.pReadLen, .runTransfer false, .pReadLen]) (s := pending 0b0100)
    (p := fun t => t.len = 0) (by decide)
  refine ⟨4, _, { pending 0b0100 with len := 0 }, pending 0b0100, t, by decide, rfl, h1, ?_, of_decide_eq_true h2⟩
  intro i hi v
  simp only [List.mem_cons, List.not_mem_nil, or_false] at hi
  rcases hi with rfl | rfl | rfl <;> simp

/-- The selector at the supported maximum and one above it. -/
theorem witness_DigitsReadBackSelectorAndTime :
    (∃ s : State, s.cfg.selDisplayMax ≤ 99 ∧ s.snap.toNat / 4 ≤ s.cfg.selDisplayMax ∧ s.snap.toNat / 4 = 3) ∧
    (∃ s : State, s.cfg.selDisplayMax ≤ 99 ∧ s.cfg.selDisplayMax < s.snap.toNat / 4 ∧ s.snap.toNat / 4 = 4) :=
  ⟨⟨{ idle with snap := 0b1100 }, by decide, by decide, by decide⟩,
    ⟨{ idle with snap := 0b10000 }, by decide, by decide, by decide⟩⟩

/-- A pending tick, and a state without one. -/
theorem witness_TimerDispatchServicesTheTick :
    (∃ s : State, s.phase = .idle ∧ s.gie = true ∧ s.timerTo = true ∧ s.cfg.timerIrqEn = true) ∧
    (∃ s : State, ¬ (s.phase = .idle ∧ s.gie = true ∧ s.timerTo = true ∧ s.cfg.timerIrqEn = true)) :=
  ⟨⟨{ idle with timerTo := true }, by decide⟩, ⟨idle, by decide⟩⟩

theorem witness_SwitchDispatchExitBailsOut :
    ∃ s : State, s.phase = .idle ∧ s.gie = true ∧ s.edgecap &&& s.cfg.swIrqMask ≠ 0 ∧ s.sw.getLsbD 0 = true :=
  ⟨pending 0b0111, by decide⟩

/-- No length pending; a length pending and the confirm bit as before. -/
theorem witness_SwitchDispatchWithoutTransfer :
    (∃ s : State, s.phase = .idle ∧ s.gie = true ∧ s.edgecap &&& s.cfg.swIrqMask ≠ 0 ∧ s.sw.getLsbD 0 = false ∧ s.len = 0) ∧
    (∃ s : State, s.phase = .idle ∧ s.gie = true ∧ s.edgecap &&& s.cfg.swIrqMask ≠ 0 ∧ s.sw.getLsbD 0 = false ∧ s.len ≠ 0 ∧
      s.sw.getLsbD 1 = s.prevConfirm) :=
  ⟨⟨{ pending 0b0110 with len := 0 }, by decide⟩, ⟨pending 0b0100, by decide⟩⟩

/-- A rising and a falling edge of the confirm bit, over `len` bytes. -/
def edge (len : Word32) (n : Nat) : State := { loaded len n with sw := 0b0010 }

theorem edge_ok {len : Word32} {n : Nat} (hl : len ≠ 0) : (edge len n).phase = .idle ∧ (edge len n).gie = true ∧
    (edge len n).edgecap &&& (edge len n).cfg.swIrqMask ≠ 0 ∧ (edge len n).sw.getLsbD 0 = false ∧ (edge len n).len ≠ 0 ∧
    (edge len n).sw.getLsbD 1 ≠ (edge len n).prevConfirm ∧ (edge len n).inBuf.wf :=
  ⟨rfl, rfl, by show (0b0010#32 &&& 0b1111#32) ≠ 0; decide, by show (0b0010#32).getLsbD 0 = false; decide, hl, by show (0b0010#32).getLsbD 1 ≠ false; decide, bytes_wf _⟩

/-- Sides 1 and 240, and a length that is no square. -/
theorem witness_SwitchDispatchEdgeTransfers :
    (∃ s : State, (s.phase = .idle ∧ s.gie = true ∧ s.edgecap &&& s.cfg.swIrqMask ≠ 0 ∧ s.sw.getLsbD 0 = false ∧ s.len ≠ 0 ∧
      s.sw.getLsbD 1 ≠ s.prevConfirm ∧ s.inBuf.wf) ∧ definedBelow (min s.len.toNat 65536) s.inBuf ∧
      1 * 1 = min s.len.toNat 65536) ∧
    (∃ s : State, (s.phase = .idle ∧ s.gie = true ∧ s.edgecap &&& s.cfg.swIrqMask ≠ 0 ∧ s.sw.getLsbD 0 = false ∧ s.len ≠ 0 ∧
      s.sw.getLsbD 1 ≠ s.prevConfirm ∧ s.inBuf.wf) ∧ definedBelow (min s.len.toNat 65536) s.inBuf ∧
      240 * 240 = min s.len.toNat 65536) ∧
    (∃ s : State, (s.phase = .idle ∧ s.gie = true ∧ s.edgecap &&& s.cfg.swIrqMask ≠ 0 ∧ s.sw.getLsbD 0 = false ∧ s.len ≠ 0 ∧
      s.sw.getLsbD 1 ≠ s.prevConfirm ∧ s.inBuf.wf) ∧ definedBelow (min s.len.toNat 65536) s.inBuf ∧
      ∀ i : Nat, i * i ≠ min s.len.toNat 65536) :=
  ⟨⟨edge 1 1, edge_ok (by decide), sevens_defined (by decide), by decide⟩,
    ⟨edge 57600 57600, edge_ok (by decide), sevens_defined (by decide), by decide⟩,
    ⟨edge 2 2, edge_ok (by decide), sevens_defined (by decide), two_nonSquare⟩⟩

theorem witness_SwitchDispatchFaultCommitsNothing :
    (∃ s : State, (s.phase = .idle ∧ s.gie = true ∧ s.edgecap &&& s.cfg.swIrqMask ≠ 0 ∧ s.sw.getLsbD 0 = false ∧ s.len ≠ 0 ∧
      s.sw.getLsbD 1 ≠ s.prevConfirm ∧ s.inBuf.wf) ∧ leastUndef (min s.len.toNat 65536) 0 s.inBuf) ∧
    (∃ s : State, (s.phase = .idle ∧ s.gie = true ∧ s.edgecap &&& s.cfg.swIrqMask ≠ 0 ∧ s.sw.getLsbD 0 = false ∧ s.len ≠ 0 ∧
      s.sw.getLsbD 1 ≠ s.prevConfirm ∧ s.inBuf.wf) ∧ definedBelow (min s.len.toNat 65536) s.inBuf ∧
      241 * 241 = min s.len.toNat 65536) ∧
    (∃ s : State, (s.phase = .idle ∧ s.gie = true ∧ s.edgecap &&& s.cfg.swIrqMask ≠ 0 ∧ s.sw.getLsbD 0 = false ∧ s.len ≠ 0 ∧
      s.sw.getLsbD 1 ≠ s.prevConfirm ∧ s.inBuf.wf) ∧ definedBelow (min s.len.toNat 65536) s.inBuf ∧
      256 * 256 = min s.len.toNat 65536) :=
  ⟨⟨edge 1 0, edge_ok (by decide), sevens_leastUndef (by decide)⟩,
    ⟨edge 58081 58081, edge_ok (by decide), sevens_defined (by decide), by decide⟩,
    ⟨edge 70000 65536, edge_ok (by decide), sevens_defined (by decide), by decide⟩⟩

/-- A state that awaits its ACK, with every edge captured. -/
def awaiting : State := { idle with phase := .ack, snap := 0b0110, sw := 0b0110, edgecap := 0b1111 }

theorem awaiting_inv : awaiting.Inv :=
  inv_of_regions rfl (by decide) (by decide) (by decide) rfl ⟨rfl, rfl, rfl, rfl⟩ (.inr rfl) rfl (by decide)

theorem idle_inv : idle.Inv :=
  inv_of_regions rfl (by decide) (by decide) (by decide) rfl ⟨rfl, rfl, rfl, rfl⟩ (.inl rfl) rfl (by decide)

theorem witness_AckClearsEveryEdge : awaiting.phase = .ack ∧ awaiting.edgecap.toNat < 2 ^ awaiting.cfg.swWidth ∧
    idle.phase ≠ .ack := by decide

/-- The ACK itself, and a switch change while it is awaited. -/
theorem witness_SnapshotHeldUntilAck : awaiting.phase = .ack ∧ (∃ t, exec .ack awaiting = .next t) ∧
    (∃ t, exec (.swSet 0b0111) awaiting = .next t) :=
  ⟨rfl, ⟨_, rfl⟩, ⟨_, rfl⟩⟩

theorem witness_EdgeBeforeAckIsLost : awaiting.Inv ∧ awaiting.phase = .ack ∧ (15 : Word32).toNat < 2 ^ awaiting.cfg.swWidth :=
  ⟨awaiting_inv, rfl, by decide⟩

/-- A transfer, its ACK, a selector change, a new length, and a dispatch that finds the confirm bit as it was. -/
theorem witness_HeldConfirmTransfersOnce : ∃ (is : List Instr) (s1 t1 s2 t2 : State), exec .dispatchSwitch s1 = .next t1 ∧
    t1.phase = .ack ∧ runEvents is t1 = some s2 ∧ .reset ∉ is ∧
    (∀ a b u, is = a ++ .dispatchSwitch :: b → runEvents a t1 = some u → u.sw.getLsbD 0 = true) ∧
    exec .dispatchSwitch s2 = .next t2 ∧ s2.sw.getLsbD 1 = s1.sw.getLsbD 1 := by
  obtain ⟨t1, h1, h2⟩ := exists_of_after (r := exec .dispatchSwitch (pending 0b0110))
    (p := fun t => decide (t.phase = .ack) && after (match runEvents [.ack, .swSet 0b1110, .pWriteLen 4] t with
      | some s => (match exec .dispatchSwitch s with
        | .next _ => .next s
        | r => r)
      | none => .fault (.blockNotEnabled "")) (fun s => s.sw.getLsbD 1)) (by decide)
  rw [Bool.and_eq_true] at h2
  obtain ⟨h3, h4⟩ := h2
  cases hr : runEvents [.ack, .swSet 0b1110, .pWriteLen 4] t1 with
  | none => rw [hr] at h4; cases h4
  | some s2 =>
    rw [hr] at h4
    simp only at h4
    cases hx : exec .dispatchSwitch s2 with
    | fault f => rw [hx] at h4; cases h4
    | refused f => rw [hx] at h4; cases h4
    | next t2 =>
      rw [hx] at h4
      refine ⟨_, pending 0b0110, t1, s2, t2, h1, of_decide_eq_true h3, hr, by decide, ?_, hx, ?_⟩
      · intro a b u hab
        have hm : Instr.dispatchSwitch ∈ [Instr.ack, .swSet 0b1110, .pWriteLen 4] := by rw [hab]; simp
        exact absurd hm (by decide)
      · have h5 : s2.sw.getLsbD 1 = true := h4
        rw [h5]; rfl

theorem witness_ExpiriesCoalesceIntoOneTick : idle.phase = .idle ∧ idle.gie = true ∧ idle.cfg.timerIrqEn = true := by decide

theorem witness_EitherPendingSourceMayGoFirst : ∃ s : State, s.phase = .idle ∧ s.gie = true ∧ s.timerTo = true ∧
    s.cfg.timerIrqEn = true ∧ s.edgecap &&& s.cfg.swIrqMask ≠ 0 :=
  ⟨{ pending 0 with timerTo := true }, by decide⟩

/-- An event that steps, a block event that waits, a producer event that breaks the ownership. -/
theorem witness_EventsStepExactlyWhenEnabled : enabled .boot State.reset = true ∧ enabled .boot idle = false ∧
    enabled (.pWriteLen 4) (pending 0) = false := by decide

theorem witness_NoBlockEventInAckOrFault : (∃ t, exec .ack awaiting = .next t ∧ awaiting.phase = .ack) ∧
    (∃ s t : State, s.phase = .fault ∧ exec .reset s = .next t) :=
  ⟨⟨_, rfl, rfl⟩, ⟨{ idle with phase := .fault }, _, rfl, rfl⟩⟩

/-- A RESET after a fault, a refused word before it; the event that sets the record; and a second fault, in BOOT. -/
theorem witness_RecordIsNeverCleared :
    (∃ s t : State, step s = .next t ∧ s.fault = some (.geometry 241) ∧ s.refused = true) ∧
    (∃ s t : State, step s = .next t ∧ t.fault ≠ s.fault) ∧
    (∃ s t : State, step s = .next t ∧ s.phase = .boot ∧ s.fault = some (.geometry 241) ∧ t.phase = .fault) := by
  refine ⟨⟨{ idle with fault := some (.geometry 241), refused := true, events := [.event 0x0100000000000000] }, _, rfl, rfl, rfl⟩,
    ?_, ?_⟩
  · obtain ⟨t, h1, h2⟩ := exists_of_after (r := step { idle with events := [.event 0x0600000001000001] })
      (p := fun t => t.fault ≠ none) (by decide)
    exact ⟨_, t, h1, of_decide_eq_true h2⟩
  · obtain ⟨t, h1, h2⟩ := exists_of_after
      (r := step { State.reset with len := 4, fault := some (.geometry 241), events := [.event 0x0200000000000000] })
      (p := fun t => t.phase = .fault) (by decide)
    exact ⟨_, t, h1, rfl, rfl, of_decide_eq_true h2⟩

/-- BOOT turns interrupts on, RESET turns them off, and while they are off no dispatch steps. -/
theorem witness_GieWrittenOnlyByBootAndReset :
    (∃ t, exec .boot State.reset = .next t ∧ State.reset.gie = false ∧ t.gie = true ∧ t.phase ≠ .fault) ∧
    (∃ t, exec .reset idle = .next t ∧ idle.gie = true ∧ t.gie = false) :=
  ⟨⟨_, rfl, rfl, rfl, by decide⟩, ⟨_, rfl, rfl, rfl⟩⟩

/-- RESET clears the retained bit; a dispatch that passes the exit test changes it. -/
theorem witness_RetainedConfirmWrittenOnlyByService :
    (∃ s t : State, exec .reset s = .next t ∧ t.prevConfirm ≠ s.prevConfirm) ∧
    (∃ s t : State, exec .dispatchSwitch s = .next t ∧ t.prevConfirm ≠ s.prevConfirm ∧ t.phase = .ack) := by
  refine ⟨⟨{ idle with prevConfirm := true }, _, rfl, by decide⟩, ?_⟩
  obtain ⟨t, h1, h2⟩ := exists_of_after (r := exec .dispatchSwitch { pending 0b0110 with len := 0 })
    (p := fun t => t.prevConfirm ≠ false ∧ t.phase = .ack) (by decide)
  exact ⟨_, t, h1, of_decide_eq_true h2⟩

/-- RESET clears the count; a timer dispatch counts. -/
theorem witness_TickCountedOnlyByDispatch :
    (∃ s t : State, exec .reset s = .next t ∧ t.timeoutCount ≠ s.timeoutCount) ∧
    (∃ s t : State, exec .dispatchTimer s = .next t ∧ t.timeoutCount ≠ s.timeoutCount) := by
  refine ⟨⟨{ idle with timeoutCount := 1 }, _, rfl, by decide⟩, ?_⟩
  obtain ⟨t, h1, h2⟩ := exists_of_after (r := exec .dispatchTimer { idle with timerTo := true })
    (p := fun t => t.timeoutCount ≠ 0) (by decide)
  exact ⟨_, t, h1, of_decide_eq_true h2⟩

/-- The producer's request, and a transfer that clears it. -/
theorem witness_LengthRegisterOwnership :
    (∃ t, exec (.pWriteLen 4) idle = .next t ∧ t.len ≠ idle.len) ∧
    (∃ t, exec (.runTransfer false) (pending 0) = .next t ∧ t.len ≠ (pending 0).len) := by
  refine ⟨⟨{ idle with len := 4 }, rfl, by decide⟩, ?_⟩
  obtain ⟨t, h1, h2⟩ := exists_of_after (r := exec (.runTransfer false) (pending 0)) (p := fun t => t.len ≠ 4) (by decide)
  exact ⟨t, h1, of_decide_eq_true h2⟩

/-- A byte written by the producer, and a transfer's bytes; the offset at its clamp. -/
theorem witness_BufferOwnership :
    (∃ t, exec (.pWriteIn 65535 7) idle = .next t ∧ t.inBuf ≠ idle.inBuf) ∧
    (∃ t, exec (.runTransfer false) (pending 0) = .next t ∧ t.outBuf ≠ (pending 0).outBuf) ∧
    min (pending 0).len.toNat 65536 ≤ 4 := by
  refine ⟨⟨{ idle with inBuf := idle.inBuf.write 65535 7 }, rfl, by decide⟩, ?_, by decide⟩
  obtain ⟨t, h1, h2⟩ := exists_of_after (r := exec (.runTransfer false) (pending 0)) (p := fun t => t.outBuf ≠ []) (by decide)
  exact ⟨t, h1, of_decide_eq_true h2⟩

theorem witness_SurfaceWrittenOnlyByRendering : ∃ s t : State, exec .reset s = .next t ∧ t.fb ≠ s.fb :=
  ⟨{ idle with fb := bytes [7] }, _, rfl, by decide⟩

/-- Two regions alike below the length and different above it. -/
theorem witness_StaleLocalBytesAreNeverSeen : ∃ (m : Memory) (s t : State), s.localBuf.wf ∧ m.wf ∧
    (∀ x, x < localReach (.apply 2 1) → m.read x = s.localBuf.read x) ∧ exec (.apply 2 1) s = .next t ∧ m ≠ s.localBuf := by
  obtain ⟨t, h1, -⟩ := exists_of_after (r := exec (.apply 2 1) { idle with localBuf := bytes [1, 2, 3] })
    (p := fun _ => true) (by decide)
  refine ⟨bytes [1, 2, 9], _, t, bytes_wf _, bytes_wf _, ?_, h1, by decide⟩
  decide

/-- P4's first block event: the trace BOOT, run from reset to its end. -/
def bootTrace : State := { State.reset with events := [.event 0x0200000000000000] }

/-- The state that trace ends in. -/
def booted : State := { State.reset with gie := true, phase := .idle }

theorem bootTrace_ends : runTrace bootTrace = some booted ∧ booted.settled ∧ EndsAt bootTrace booted := by
  have h : runTrace bootTrace = some booted := by decide
  have hs : booted.settled := by unfold State.settled; decide
  refine ⟨h, hs, booted, h, [], by simp, rfl, hs, fun a b v hn hb => ?_⟩
  exact absurd (List.append_eq_nil_iff.1 hn.symm).2 hb

/-- R163 with the block's own events after the trace: an expiry is the trace's last event, and the run ends after the dispatch
that services it. -/
theorem test_run_ends_after_dispatch : ∃ t : State, SettlesAt { idle with timerTo := true } t ∧ (observe t).timeoutCount = 1 := by
  let t : State := { idle with timeoutCount := 1, timerPeriod := idle.cfg.timerPeriod, disp := #v[.dec 0, .dec 0, .dec 0, .dec 0, .dec 0, .dec 0] }
  refine ⟨t, ⟨[.dispatchTimer], by decide, by decide, by unfold State.settled; decide, ?_⟩, rfl⟩
  intro a b v h hb hv hs
  cases a with
  | nil => cases hv; exact absurd hs.2.2.2.1 (by decide)
  | cons i l => exact hb (List.append_eq_nil_iff.1 (List.cons.inj h).2.symm).2

/-- Each clause: a settled state, one in which no event of the block's own steps, a trace run to its end, an observed run. -/
theorem witness_SettledBlockWaits : booted.settled ∧
    (idle.Inv ∧ idle.fault = none ∧ idle.refused = false ∧ ∀ i t, ownEvent i = true → exec i idle ≠ .next t) ∧
    (runTrace bootTrace = some booted ∧ booted.settled) ∧ RunObserved bootTrace (observe booted) := by
  refine ⟨bootTrace_ends.2.1, ⟨idle_inv, rfl, rfl, fun i t h => ?_⟩, ⟨bootTrace_ends.1, bootTrace_ends.2.1⟩,
    booted, bootTrace_ends.2.2, rfl⟩
  cases i <;> first | (cases h; done) | (exact nofun)

theorem witness_StepKeepsTheInvariant : idle.Inv ∧ step idle = .next idle := ⟨idle_inv, rfl⟩

theorem witness_DecodeOfEncodeIsIdentity : Instr.wf 4 (.apply 65536 0xFFFFFFFF) = true ∧ Instr.wf 4 (.swSet 15) = true ∧
    Instr.wf 4 (.pWriteIn 65535 255) = true ∧ Instr.wf 4 (.tUnsupported 4 0) = true := by decide

theorem witness_EncodeOfDecodeIsIdentity : decode 4 (.event 0x0600000007010000) = .ok (.apply 65536 7) ∧
    decode 4 (.lane 3 0) = .ok (.tDarken 0) := by decide

theorem witness_StepRunsTheDecodedEvent :
    (∃ s : State, s.events = [.event 0x1100000000000000] ∧ decode s.cfg.swWidth (.event 0x1100000000000000) = .ok .timerExpire) ∧
    idle.events = [] :=
  ⟨⟨{ idle with events := [.event 0x1100000000000000] }, rfl, by decide⟩, rfl⟩

theorem witness_RefusedWordOnlySetsTheMark :
    ∃ s : State, s.events = [.event 0] ∧ decode s.cfg.swWidth (.event 0) = .error .unknownCode :=
  ⟨{ idle with events := [.event 0] }, rfl, by decide⟩

end Sys2Proof.Tests
end

section
/-! The interrupt enable `gie` (10_state.md R21): who writes it, and what it holds back. -/

namespace Sys2Proof.Machine

/-- A transfer never touches the interrupt enable. -/
theorem runTransfer_gie {k : Word32} {render : Bool} {s t : State} (h : runTransfer k render s = .ok t) :
    t.gie = s.gie := by
  rw [runTransfer_frame h]

/-- BOOT: a fault, with the interrupt enable as it was, or the interrupt enable on. -/
theorem execBoot_gie {s t : State} (h : execBoot s = .next t) :
    (t.phase = .fault ∧ t.gie = s.gie) ∨ t.gie = true := by
  obtain ⟨-, ⟨f, rfl⟩ | ⟨u, -, rfl⟩⟩ := execBoot_next h
  · exact .inl ⟨raiseFault_phase s f, raiseFault_gie s f⟩
  · exact .inr (returnToIdle_gie _)

theorem execDispatchTimer_gie {s t : State} (h : execDispatchTimer s = .next t) : t.gie = s.gie := by
  obtain ⟨-, -, -, rfl⟩ := execDispatchTimer_next h
  rw [digitUpdate_gie, enterDispatch_gie]

/-- A switch dispatch keeps the interrupt enable in each of its outcomes: fault, exit, no transfer, transfer. -/
theorem execDispatchSwitch_gie {s t : State} (h : execDispatchSwitch s = .next t) : t.gie = s.gie := by
  obtain ⟨-, -, -, ⟨-, -, -, f, rfl⟩ | ⟨-, rfl⟩ | ⟨-, -, rfl⟩ | ⟨-, -, -, u, hu, rfl⟩⟩ := execDispatchSwitch_next h
  · exact raiseFault_gie s f
  · exact enterDispatch_gie s
  · exact enterDispatch_gie s
  · exact (runTransfer_gie hu).trans (enterDispatch_gie s)

/-- What any event does to the interrupt enable: BOOT may turn it on, RESET turns it off, every other event keeps it. -/
theorem exec_gie {i : Instr} {s t : State} (h : exec i s = .next t) :
    t.gie = s.gie ∨ (i = .boot ∧ t.gie = true) ∨ (i = .reset ∧ t.gie = false) := by
  cases i with
  | reset => cases h; exact .inr (.inr ⟨rfl, rfl⟩)
  | boot =>
    rcases execBoot_gie h with ⟨-, hg⟩ | hg
    · exact .inl hg
    · exact .inr (.inl ⟨rfl, hg⟩)
  | dispatchTimer => exact .inl (execDispatchTimer_gie h)
  | dispatchSwitch => exact .inl (execDispatchSwitch_gie h)
  | ack => obtain ⟨-, rfl⟩ := execAck_next h; exact .inl rfl
  | runTransfer render =>
    obtain ⟨-, ⟨f, rfl⟩ | hu⟩ := execRunTransfer_next h
    · exact .inl rfl
    · exact .inl (runTransfer_gie hu)
  | apply len sel => obtain ⟨-, ⟨f, -, rfl⟩ | ⟨bs, -, rfl⟩⟩ := execApply_next h <;> exact .inl rfl
  | render len => obtain ⟨-, rfl | ⟨f, rfl⟩ | ⟨bs, -, rfl⟩⟩ := execRender_next h <;> exact .inl rfl
  | pWriteIn off byte => obtain ⟨-, rfl⟩ := execPWriteIn_next h; exact .inl rfl
  | pWriteLen value => obtain ⟨-, rfl⟩ := execPWriteLen_next h; exact .inl rfl
  | pReadOut off =>
    obtain ⟨b, -, -, e⟩ | ⟨-, e⟩ := execPReadOut_cases off s <;>
    · cases e.symm.trans h
      exact .inl rfl
  | swSet _ | timerExpire | pReadLen | tIdent _ | tInvert _ | tBrighten _ | tDarken _ | tUnsupported _ _ =>
    cases h
    exact .inl rfl

/-- Settles O46: `exec_gie` says who writes the interrupt enable, and both dispatches need it on. -/
theorem gieWrittenOnlyByBootAndReset : Obligations.GieWrittenOnlyByBootAndReset := by
  refine ⟨fun i s t h => ?_, fun s t h hp => ?_, fun s t h => ?_, fun s t hg => ⟨fun h => ?_, fun h => ?_⟩⟩
  · rcases exec_gie h with he | ⟨hi, ht⟩ | ⟨hi, ht⟩
    · exact ⟨fun hs ht => by simp [he, hs] at ht, fun hs ht => by simp [he, hs] at ht⟩
    · exact ⟨fun _ _ => hi, fun _ h' => by simp [ht] at h'⟩
    · exact ⟨fun _ h' => by simp [ht] at h', fun _ _ => hi⟩
  · rcases execBoot_gie h with ⟨hf, -⟩ | ht
    · exact absurd hf hp
    · exact ht
  · cases h; rfl
  · obtain ⟨-, hon, -, -⟩ := execDispatchTimer_next h
    simp [hg] at hon
  · obtain ⟨-, hon, -, -⟩ := execDispatchSwitch_next h
    simp [hg] at hon

end Sys2Proof.Machine
end

section
/-! The byte functions as natural numbers (41_transform.md R102 to R104), and the function each selector chooses. -/

namespace Sys2Proof.Machine

@[simp] theorem invertByte_toNat (v : Byte) : (invertByte v).toNat = 255 - v.toNat := by
  simp [invertByte, BitVec.toNat_not]

@[simp] theorem brightenByte_toNat (v : Byte) : (brightenByte v).toNat = min 255 (v.toNat + 50) := by
  simp only [brightenByte, Config.brightStep, BitVec.toNat_ofNat]
  omega

/-- Saturation at 0 is the truncated subtraction of the natural numbers. -/
@[simp] theorem darkenByte_toNat (v : Byte) : (darkenByte v).toNat = v.toNat - 50 := by
  have hv := v.isLt
  simp only [darkenByte, Config.brightStep, BitVec.toNat_ofNat]
  omega

/-- A selector of known number may be taken as that literal, on which the comparisons of R66 evaluate. -/
theorem selectTransform_of_toNat {k : Word32} {n : Nat} (h : k.toNat = n) :
    selectTransform k = selectTransform (BitVec.ofNat 32 n) := by
  rw [← h, BitVec.ofNat_toNat, BitVec.setWidth_eq]

/-- Settles O5: each selector value names its transform, whose byte function is read off as a natural number. -/
theorem selectorChoosesItsByteFunction : Obligations.SelectorChoosesItsByteFunction := by
  intro k v
  refine ⟨fun hk => ?ident, fun hk => ?invert, fun hk => ?brighten, fun hk => ?darken, fun hk => ?unsupported⟩
  case ident =>
    rw [show selectTransform k = .ident from selectTransform_of_toNat hk]
    rfl
  case invert =>
    rw [show selectTransform k = .invert from selectTransform_of_toNat hk]
    exact invertByte_toNat v
  case brighten =>
    rw [show selectTransform k = .brighten from selectTransform_of_toNat hk]
    exact brightenByte_toNat v
  case darken =>
    rw [show selectTransform k = .darken from selectTransform_of_toNat hk]
    refine (darkenByte_toNat v).trans ?_
    split <;> omega
  case unsupported =>
    rw [selectTransform_unsupported hk]
    rfl

end Sys2Proof.Machine
end

section
/-! The producer's two writes (40_handshake.md R94, R95): what each does while the producer owns the buffers. -/

namespace Sys2Proof.Machine

/-- The length register reads zero: the producer owns the buffers. -/
theorem producerOwns_of_len_eq_zero {s : State} (h : s.len = 0) : producerOwns s = true := decide_eq_true h

theorem execPWriteIn_of_len_eq_zero {s : State} (off : BitVec 16) (b : Byte) (h : s.len = 0) :
    execPWriteIn off b s = .next { s with inBuf := s.inBuf.write off.toNat b } := by
  rw [execPWriteIn, producerOwns_of_len_eq_zero h, producerEvent_true]

theorem execPWriteLen_of_len_eq_zero {s : State} (v : Word32) (h : s.len = 0) :
    execPWriteLen v s = .next { s with len := v } := by
  rw [execPWriteLen, producerOwns_of_len_eq_zero h, producerEvent_true]

/-- Settles O26: at length zero both writes take effect, and `Memory.read_write` gives every byte of InBuffer; a next state
of either write needs length zero. -/
theorem producerWritesOnlyWhileLengthIsZero : Obligations.ProducerWritesOnlyWhileLengthIsZero := by
  intro off b v s
  refine ⟨fun hlen => ⟨?writeIn, execPWriteLen_of_len_eq_zero v hlen⟩, fun hlen t => ⟨fun h => ?_, fun h => ?_⟩⟩
  case writeIn =>
    refine ⟨_, execPWriteIn_of_len_eq_zero off b hlen, rfl, fun x => ?_⟩
    simp only [Memory.read_write, @eq_comm _ x]
  · exact hlen (execPWriteIn_next h).1
  · exact hlen (execPWriteLen_next h).1

end Sys2Proof.Machine
end

section
/-! The compositor (42_compositor.md R110): the probe's exact root (R111), the report of a length that has none (R117), and the
frame drawn for a length that has one (R112, R113, R118). -/

namespace Sys2Proof.Machine

/-! ### Sizing -/

/-- The probe stops at the root of a perfect square: below it every square is too small, and it is within reach. -/
theorem probeRoot_sq {r : Nat} : ∀ {fuel i : Nat}, i ≤ r → r ≤ i + fuel → probeRoot (r * r) fuel i = r := by
  intro fuel
  induction fuel with
  | zero => exact fun hlow hreach => Nat.le_antisymm hlow hreach
  | succ fuel ih =>
    intro i hlow hreach
    rw [probeRoot]
    split
    · next hsq =>
      have hlt : i < r := Nat.mul_self_lt_mul_self_iff.1 hsq
      exact ih hlt (by omega)
    · next hsq =>
      have hge : r ≤ i := Nat.mul_self_le_mul_self_iff.1 (Nat.le_of_not_lt hsq)
      exact Nat.le_antisymm hlow hge

@[simp] theorem isqrtExact_sq (i : Nat) : isqrtExact (i * i) = some i := by
  simp [isqrtExact, probeRoot_sq (Nat.zero_le i) (by simpa using Nat.le_mul_self i)]

/-- A root the probe answers squares to the length, whatever the length. -/
theorem sq_of_isqrtExact {len i : Nat} (h : isqrtExact len = some i) : i * i = len := by
  simp only [isqrtExact] at h
  split at h
  · next hsq =>
    obtain rfl := Option.some.inj h
    exact hsq
  · cases h

theorem isqrtExact_eq_some_iff (len i : Nat) : isqrtExact len = some i ↔ i * i = len :=
  ⟨sq_of_isqrtExact, fun h => h ▸ isqrtExact_sq i⟩

theorem isqrtExact_eq_none_iff (len : Nat) : isqrtExact len = none ↔ ∀ i, i * i ≠ len := by
  simp only [Option.eq_none_iff_forall_ne_some, ne_eq, isqrtExact_eq_some_iff]

/-- Settles O11: the probe stops exactly at the root of a perfect square, and its answer is checked against the length. -/
theorem isqrtExactFindsTheRoot : Obligations.IsqrtExactFindsTheRoot := isqrtExact_eq_some_iff

/-! ### The procedure and its event -/

theorem compose_of_isqrtExact_none {n : Nat} (s : State) (h : isqrtExact n = none) :
    compose n s = .ok (emit .sizingError s) := by
  simp [compose, h]

/-- Where the root fits the surface and the image's bytes read, the compositor writes the whole frame. -/
theorem compose_of_sq_of_read {n side : Nat} {s : State} {bs : List Byte} (hsq : side * side = n) (hfit : side ≤ Config.surfH)
    (hread : readLocal n s = .ok bs) : compose n s = .ok (writeSurface (frameBytes side bs.toArray) s) := by
  subst hsq
  simp [compose, Nat.not_lt.2 hfit, hread]

theorem execRender_of_idle {s : State} (len : BitVec 17) (h : s.phase = .idle) :
    execRender len s = commit s (compose len.toNat s) := by
  rw [execRender, decide_eq_true h, blockEvent_true]

/-- Settles O14: a length without a root takes the compositor's first exit, which only reports. -/
theorem renderReportsNonSquare : Obligations.RenderReportsNonSquare := by
  refine ⟨fun n s h => compose_of_isqrtExact_none s h, fun len s hidle hns => ?_⟩
  have hnone : isqrtExact len.toNat = none := (isqrtExact_eq_none_iff _).2 hns
  calc execRender len s
      = commit s (compose len.toNat s) := execRender_of_idle len hidle
    _ = .next (emit .sizingError s) := by rw [compose_of_isqrtExact_none s hnone, commit_ok]

/-! ### The frame -/

theorem background_eq : background = 0x00 := by decide

/-- A pixel of the frame, with the image's bytes taken from the region they were read from (R113, R116). -/
theorem some_pixelByte {side : Nat} {img : Memory} {bs : List Byte} (hlen : bs.length = side * side)
    (hbs : ∀ i (hi : i < bs.length), img.read i = some bs[i]) (x y : Nat) :
    some (pixelByte side bs.toArray x y) =
      if insideImage side x y then (img.read (sourceOffset side x y)).map grayTo332 else some 0x00 := by
  unfold pixelByte
  split
  · next hin =>
    have hoff : sourceOffset side x y < bs.length := hlen ▸ sourceOffset_lt hin
    simp [hbs _ hoff, Array.getD, hoff]
  · rw [background_eq]

/-- The frame drawn from the bytes of an image shows that image, centred on the background. -/
theorem frameShown_writePrefix_frameBytes {side : Nat} {img : Memory} {bs : List Byte} (hlen : bs.length = side * side)
    (hbs : ∀ i (hi : i < bs.length), img.read i = some bs[i]) (m : Memory) :
    frameShown side img (m.writePrefix (frameBytes side bs.toArray)) := by
  intro x y hx hy
  have hpixel := (read_frame m side bs.toArray hx hy).trans (some_pixelByte hlen hbs x y)
  simp only [insideImage_iff] at hpixel
  exact hpixel

/-- Settles O13: the image's bytes all read, so the compositor writes the frame they give and nothing else. -/
theorem renderDrawsTheWholeFrame : Obligations.RenderDrawsTheWholeFrame := by
  intro len side s hidle hwf hsq hfit hdef
  obtain ⟨bs, hread⟩ : ∃ bs, readLocal len.toNat s = .ok bs :=
    readLocal_of_defined hwf fun i hi => Option.ne_none_iff_exists'.2 (hdef i hi)
  obtain ⟨hlen, hbs⟩ := readLocal_ok hread
  have hexec : execRender len s = .next (writeSurface (frameBytes side bs.toArray) s) := by
    rw [execRender_of_idle len hidle, compose_of_sq_of_read hsq hfit hread, commit_ok]
  exact ⟨_, hexec, rfl, frameShown_writePrefix_frameBytes (hlen.trans hsq.symm) hbs s.fb⟩

end Sys2Proof.Machine
end

section
/-! The digit update (43_dispatcher.md R132): a number below 100 reads back from its two decimal digits. -/

namespace Sys2Proof.Machine

/-- The selector is the switch vector without its two low bits (30_encoding.md R65). -/
@[simp] theorem switchSel_toNat (w : Word32) : (switchSel w).toNat = w.toNat / 4 := by
  simp [switchSel, BitVec.toNat_ushiftRight, Nat.shiftRight_eq_div_pow]

@[simp] theorem digitCode_digitOf (d : Nat) : digitCode (digitOf d) = d % 10 := rfl

/-- Two banks hold the decimal digits of a number below 100. -/
theorem twoDigits_readBack {n : Nat} (h : n < 100) :
    digitCode (digitOf (n % 10)) ≤ 9 ∧ digitCode (digitOf (n / 10)) ≤ 9 ∧
      10 * digitCode (digitOf (n / 10)) + digitCode (digitOf (n % 10)) = n := by
  simp only [digitCode_digitOf]
  omega

/-- The selector's two banks, up to the supported maximum. -/
theorem selDigits_readBack {m k : Nat} (hm : m ≤ 99) (hk : k ≤ m) :
    digitCode (selOnes m k) ≤ 9 ∧ digitCode (selTens m k) ≤ 9 ∧
      10 * digitCode (selTens m k) + digitCode (selOnes m k) = k := by
  rw [selOnes, selTens, if_pos hk, if_pos hk]
  exact twoDigits_readBack (by omega)

/-- The selector's two banks above the supported maximum: the sentinel twice. -/
theorem selDigits_overflow {m k : Nat} (hk : m < k) : selOnes m k = .ovf ∧ selTens m k = .ovf :=
  ⟨if_neg (Nat.not_le.2 hk), if_neg (Nat.not_le.2 hk)⟩

/-- Settles O30: `digitBanks` lists three pairs of digits, each of which reads back its number. -/
theorem digitsReadBackSelectorAndTime : Obligations.DigitsReadBackSelectorAndTime := by
  intro s hmax
  refine ⟨rfl, ?seconds, ?minutes, fun hk => ?selector, fun hk => ?sentinel⟩
  case seconds => exact twoDigits_readBack (n := secondsOf s.counter) (by rw [secondsOf]; omega)
  case minutes => exact twoDigits_readBack (n := minutesOf s.counter) (by rw [minutesOf]; omega)
  case selector =>
    rw [← switchSel_toNat] at hk ⊢
    exact selDigits_readBack hmax hk
  case sentinel =>
    rw [← switchSel_toNat] at hk
    exact selDigits_overflow hk

end Sys2Proof.Machine
end

section
/-! The dispatcher's events that run no transfer (43_dispatcher.md R122, R124, R125): the timer dispatch, the switch dispatch
that bails out, and the acknowledgment. -/

namespace Sys2Proof.Machine

@[simp] theorem State.ticked_cfg (s : State) : s.ticked.cfg = s.cfg := by
  unfold State.ticked
  split <;> rfl

/-- The enabling condition of a timer dispatch (R122). -/
theorem timerEnabled_iff (s : State) : (dispatchOpen s && irqTimer s) = true ↔
    s.phase = .idle ∧ s.gie = true ∧ s.timerTo = true ∧ s.cfg.timerIrqEn = true := by
  simp only [dispatchOpen, irqTimer, Bool.and_eq_true, decide_eq_true_eq, and_assoc]

/-- The digits after steps 1 and 2 of a dispatch: those of the switches and of the time after the tick. -/
theorem digitUpdate_enterDispatch (s : State) : digitUpdate (enterDispatch s) = { s.ticked with
    snap := s.sw, disp := digitBanks s.cfg.selDisplayMax (switchSel s.sw) s.ticked.counter } := by
  rw [← State.ticked_cfg, enterDispatch_ticked]
  rfl

/-- Settles O31: the tick is `ticked`, the digits follow it, and the guard is the enabling condition written out. -/
theorem timerDispatchServicesTheTick : Obligations.TimerDispatchServicesTheTick := by
  refine ⟨fun s hidle hgie hto hen => ?_, fun s hdisabled t h => ?_⟩
  · have henabled := (timerEnabled_iff s).2 ⟨hidle, hgie, hto, hen⟩
    calc execDispatchTimer s
        = .next (digitUpdate (enterDispatch s)) := by rw [execDispatchTimer, henabled, blockEvent_true]
      _ = _ := congrArg _ (digitUpdate_enterDispatch s)
  · exact hdisabled ((timerEnabled_iff s).1 (blockEvent_next h).1)

/-- R124: with the switches' exit bit set, an enabled switch dispatch ends after steps 1 and 2. -/
theorem execDispatchSwitch_of_exit {s : State} (henabled : (dispatchOpen s && irqSwitch s) = true)
    (hexit : exitBit s.sw = true) : execDispatchSwitch s = .next (enterDispatch s) := by
  simp only [execDispatchSwitch, henabled, blockEvent_true, enterDispatch_snap, if_pos hexit, commit_ok]

/-- Settles O32: the bail-out ends after steps 1 and 2, which write none of what enables a switch dispatch. -/
theorem switchDispatchExitBailsOut : Obligations.SwitchDispatchExitBailsOut := by
  intro s hidle hgie hpending hexit
  rw [← enterDispatch_ticked]
  refine ⟨execDispatchSwitch_of_exit (switchEnabled hidle hgie hpending) hexit, ?_⟩
  simp only [enabled, enterDispatch_phase, enterDispatch_gie, enterDispatch_edgecap, enterDispatch_cfg, hidle, hgie,
    decide_eq_true hpending, decide_true, Bool.and_self]

/-- R125: all-ones written to the edge capture leave no edge of a SW_WIDTH-bit capture. -/
theorem writeEdgeCapture_onesMask {s : State} (h : s.edgecap.toNat < 2 ^ s.cfg.swWidth) :
    writeEdgeCapture (onesMask s.cfg.swWidth) s = { s with edgecap := 0 } := by
  rw [writeEdgeCapture, andNot_onesMask h]

/-- Settles O36: the write of all-ones clears the capture; the digits and the return to IDLE are one record. -/
theorem ackClearsEveryEdge : Obligations.AckClearsEveryEdge := by
  refine ⟨fun s hack hwidth => ?_, fun s t hnack h => hnack (execAck_next h).1⟩
  calc execAck s
      = .next (returnToIdle (digitUpdate (writeEdgeCapture (onesMask s.cfg.swWidth) s))) := by
        rw [execAck, decide_eq_true hack, blockEvent_true, postServiceDelay]
    _ = _ := by rw [writeEdgeCapture_onesMask hwidth]; rfl

end Sys2Proof.Machine
end

section
/-! The RESET event (70_reset_and_hazards.md R170). -/

namespace Sys2Proof.Machine

/-- The edge capture a RESET event draws has SW_WIDTH bits, whatever the draw (10_state.md R23). -/
theorem drawnEdgecap_lt (s : State) : (drawnEdgecap s).toNat < 2 ^ s.cfg.swWidth := and_onesMask_lt _ _

/-- Settles O1: `execReset` has no guard and its record is the stated one; the drawn edge capture is masked to SW_WIDTH bits,
and the two emptied regions hold no byte. -/
theorem resetClearsBlockState : Obligations.ResetClearsBlockState := by
  intro s
  refine ⟨_, rfl, rfl, ?edgecap, fun x => ?regions⟩
  case edgecap => exact drawnEdgecap_lt s
  case regions => exact ⟨Memory.read_nil x, Memory.read_nil x⟩

end Sys2Proof.Machine
end

section
/-! What an event can leave: one case per outcome of each meaning, cited by every statement about all events. -/

namespace Sys2Proof.Machine

/-! ### What a transfer keeps -/

section
variable {k : Word32} {render : Bool} {s t : State} (h : runTransfer k render s = .ok t)
include h

theorem runTransfer_phase : t.phase = s.phase := by rw [runTransfer_frame h]
theorem runTransfer_snap : t.snap = s.snap := by rw [runTransfer_frame h]
theorem runTransfer_prevConfirm : t.prevConfirm = s.prevConfirm := by rw [runTransfer_frame h]
theorem runTransfer_timeoutCount : t.timeoutCount = s.timeoutCount := by rw [runTransfer_frame h]
theorem runTransfer_timerTo : t.timerTo = s.timerTo := by rw [runTransfer_frame h]
theorem runTransfer_inBuf : t.inBuf = s.inBuf := by rw [runTransfer_frame h]

/-- R99 inside a transfer. -/
theorem runTransfer_len : t.len = 0 := by rw [runTransfer_frame h]

/-- The run's record: only tokens are added to it. -/
theorem runTransfer_record : t.fault = s.fault ∧ t.refused = s.refused ∧ s.trace <+: t.trace ∧ t.cfg = s.cfg := by
  refine ⟨?fault, ?refused, ?trace, ?cfg⟩
  case trace =>
    rcases runTransfer_kept h with ⟨-, rfl⟩ | ⟨-, -, htrace, -, -⟩
    · exact List.prefix_rfl
    · exact htrace
  all_goals rw [runTransfer_frame h]

theorem runTransfer_outBuf_above {x : Nat} (hx : clampLen s.len ≤ x) : t.outBuf.read x = s.outBuf.read x := by
  rcases runTransfer_kept h with ⟨-, rfl⟩ | ⟨-, -, -, -, habove⟩
  · rfl
  · exact habove x hx

theorem runTransfer_eq_self (hl : s.len = 0) : t = s := by
  rw [runTransfer_idle k render hl] at h
  exact (Except.ok.inj h).symm

end

theorem runTransfer_norender_fb {k : Word32} {s t : State} (h : runTransfer k false s = .ok t) : t.fb = s.fb := by
  rcases runTransfer_kept h with ⟨-, rfl⟩ | ⟨-, -, -, hfb, -⟩
  · rfl
  · exact hfb rfl

/-! ### The effect of an event -/

/-- The events that only hand a value back: the reads of the producer and the selector rows. -/
def answers : Instr → Bool
  | .pReadLen | .pReadOut _ | .tIdent _ | .tInvert _ | .tBrighten _ | .tDarken _ | .tUnsupported _ _ => true
  | _ => false

/-- The outcomes of an event that steps from `s`: a fault taken before any ACK, or the event's own effect. What only
hands a value back writes the model's own fields alone (log 5, log 11). -/
inductive Effect (s : State) : Instr → State → Prop
  | reset {t : State} (h : execReset s = .next t) : Effect s .reset t
  | faulted {i : Instr} (f : FaultRecord) (hp : s.phase ≠ .ack) : Effect s i (raiseFault f s)
  | boot {u : State} (hp : s.phase = .boot) (hu : runTransfer (switchSel s.sw) false (takeSnapshot s) = .ok u) :
      Effect s .boot (returnToIdle { u with gie := true })
  | timer (hp : s.phase = .idle) (hto : s.timerTo = true) :
      Effect s .dispatchTimer (digitUpdate (enterDispatch s))
  | switchExit (hp : s.phase = .idle) (hx : exitBit s.sw = true) : Effect s .dispatchSwitch (enterDispatch s)
  | switchQuiet (hp : s.phase = .idle) (hg : s.gie = true) (hx : exitBit s.sw = false) :
      Effect s .dispatchSwitch { enterDispatch s with prevConfirm := confirmBit s.sw, phase := .ack }
  | switchTransfer {u : State} (hp : s.phase = .idle) (hg : s.gie = true) (hx : exitBit s.sw = false)
      (hc : confirmBit s.sw ≠ s.prevConfirm)
      (hu : runTransfer (switchSel s.sw) true { enterDispatch s with prevConfirm := confirmBit s.sw } = .ok u) :
      Effect s .dispatchSwitch { u with phase := .ack }
  | ack (hp : s.phase = .ack) :
      Effect s .ack (returnToIdle (digitUpdate (writeEdgeCapture (onesMask s.cfg.swWidth) s)))
  | transfer {render : Bool} {u : State} (hp : s.phase = .idle) (hu : runTransfer (switchSel s.sw) render s = .ok u) :
      Effect s (.runTransfer render) u
  | apply {len : BitVec 17} {k : Word32} {bs : List Byte} (hp : s.phase = .idle) (hr : readLocal len.toNat s = .ok bs) :
      Effect s (.apply len k) (writeLocal (bs.map (transformByte (selectTransform k))) s)
  | report {len : BitVec 17} (hp : s.phase = .idle) : Effect s (.render len) (emit .sizingError s)
  | frame {len : BitVec 17} {bs : List Byte} (hp : s.phase = .idle) (hl : bs.length = Config.surfPixels) :
      Effect s (.render len) (writeSurface bs s)
  | swSet (v : Word32) : Effect s (.swSet v) { s with edgecap := s.edgecap ||| (s.sw ^^^ v), sw := v }
  | timerExpire : Effect s .timerExpire { s with timerTo := true }
  | writeIn (off : BitVec 16) (b : Byte) (hl : s.len = 0) :
      Effect s (.pWriteIn off b) { s with inBuf := s.inBuf.write off.toNat b }
  | writeLen (v : Word32) (hl : s.len = 0) : Effect s (.pWriteLen v) { s with len := v }
  | answered {i : Instr} (hi : answers i = true) (r : Returned) (d : Nat) : Effect s i { s with returned := r, draws := d }

theorem execBoot_effect {s t : State} (h : execBoot s = .next t) : Effect s .boot t := by
  obtain ⟨hp, ⟨f, rfl⟩ | ⟨u, hu, rfl⟩⟩ := execBoot_next h
  · exact .faulted f (by simp [hp])
  · exact .boot hp hu

theorem execDispatchSwitch_effect {s t : State} (h : execDispatchSwitch s = .next t) : Effect s .dispatchSwitch t := by
  obtain ⟨hp, hg, -, ⟨-, -, -, f, rfl⟩ | ⟨hx, rfl⟩ | ⟨hx, -, rfl⟩ | ⟨hx, -, hc, u, hu, rfl⟩⟩ :=
    execDispatchSwitch_next h
  · exact .faulted f (by simp [hp])
  · exact .switchExit hp hx
  · exact .switchQuiet hp hg hx
  · exact .switchTransfer hp hg hx hc hu

/-- Every event that steps has one of the effects. -/
theorem exec_effect {i : Instr} {s t : State} (h : exec i s = .next t) : Effect s i t := by
  cases i with
  | reset => exact .reset h
  | boot => exact execBoot_effect h
  | dispatchTimer =>
    obtain ⟨hp, -, hto, rfl⟩ := execDispatchTimer_next h
    exact .timer hp hto
  | dispatchSwitch => exact execDispatchSwitch_effect h
  | ack =>
    obtain ⟨hp, rfl⟩ := execAck_next h
    exact .ack hp
  | runTransfer render =>
    obtain ⟨hp, ⟨f, rfl⟩ | hu⟩ := execRunTransfer_next h
    · exact .faulted f (by simp [hp])
    · exact .transfer hp hu
  | apply len k =>
    obtain ⟨hp, ⟨f, -, rfl⟩ | ⟨bs, hr, rfl⟩⟩ := execApply_next h
    · exact .faulted f (by simp [hp])
    · exact .apply hp hr
  | render len =>
    obtain ⟨hp, rfl | ⟨f, rfl⟩ | ⟨bs, hl, rfl⟩⟩ := execRender_next h
    · exact .report hp
    · exact .faulted f (by simp [hp])
    · exact .frame hp hl
  | swSet v => cases h; exact .swSet v
  | timerExpire => cases h; exact .timerExpire
  | pWriteIn off b =>
    obtain ⟨hl, rfl⟩ := execPWriteIn_next h
    exact .writeIn off b hl
  | pWriteLen v =>
    obtain ⟨hl, rfl⟩ := execPWriteLen_next h
    exact .writeLen v hl
  | pReadOut off =>
    obtain ⟨b, -, -, e⟩ | ⟨-, e⟩ := execPReadOut_cases off s
    · cases e.symm.trans h; exact .answered rfl _ _
    · cases e.symm.trans h; exact .answered rfl _ _
  | pReadLen | tIdent _ | tInvert _ | tBrighten _ | tDarken _ | tUnsupported _ _ =>
    cases h
    exact .answered rfl _ _

end Sys2Proof.Machine
end

section
/-! The encoder and the decoder (30_encoding.md R72 to R84): each undoes the other. -/

namespace Sys2Proof

/-! ### A word and its fields -/

/-- A word is its code and the number `w[55:0]`. -/
theorem eventWord_of_fields {w : EventWord} {code body : Nat} (hc : eventCode w = code) (hb : field w 0 56 = body) :
    eventWord code body = w := by
  subst hc hb
  apply BitVec.eq_of_toNat_eq
  have hw := w.isLt
  simp only [eventWord, eventCode, field, BitVec.toNat_ofNat]
  omega

theorem eventCode_eq (w : EventWord) : eventCode w = w.toNat / 2 ^ 56 :=
  Nat.mod_eq_of_lt (by have := w.isLt; omega)

/-- A field is 0 exactly where each of its bits is. -/
theorem field_eq_zero_iff (w : EventWord) (lo n : Nat) :
    field w lo n = 0 ↔ ∀ j, lo ≤ j → j < lo + n → w.getLsbD j = false := by
  have hbit : ∀ i, (field w lo n).testBit i = (decide (i < n) && w.getLsbD (lo + i)) := by
    intro i
    rw [field, Nat.testBit_mod_two_pow, Nat.testBit_div_two_pow, Nat.add_comm i lo, BitVec.getLsbD]
  constructor
  · intro h j hlo hhi
    have hj := hbit (j - lo)
    rw [h, Nat.zero_testBit, decide_eq_true (by omega), Bool.true_and, show lo + (j - lo) = j by omega] at hj
    exact hj.symm
  · intro h
    refine Nat.eq_of_testBit_eq fun i => ?_
    rw [hbit, Nat.zero_testBit]
    by_cases hi : i < n
    · rw [h (lo + i) (by omega) (by omega), Bool.and_false]
    · rw [decide_eq_false hi, Bool.false_and]

/-! ### Decoding an encoding -/

theorem decodeLane_unsupported {sel : Word32} (v : Byte) (h : 4 ≤ sel.toNat) : decodeLane sel v = .tUnsupported sel v := by
  rw [decodeLane, selectTransform_unsupported h]

theorem ofNat_eq_of_toNat {n k : Nat} {x : BitVec n} (h : k % 2 ^ n = x.toNat) : BitVec.ofNat n k = x :=
  BitVec.eq_of_toNat_eq ((BitVec.toNat_ofNat k n).trans h)

/-- The format of the code accepts an encoded word: its reserved bits are 0, its constraint holds, and its fields read back the
operands. -/
theorem decode_encode {swWidth : Nat} {i : Instr} (hwf : i.wf swWidth = true) : decode swWidth (encode i) = .ok i := by
  cases i with
  | reset | boot | dispatchTimer | dispatchSwitch | ack | timerExpire | pReadLen => rfl
  | runTransfer render => cases render <;> rfl
  | apply len sel =>
    have hlen : len.toNat ≤ 65536 := of_decide_eq_true hwf
    simp (disch := omega) only [encode, decode, decodeEvent, eventCode_eventWord, decodeA, field_eventWord]
    refine accept_ok.2 ⟨decide_eq_true (by omega), decide_eq_true (by simp only [Config.maxImageBytes]; omega), ?_⟩
    congr 1 <;> exact ofNat_eq_of_toNat (by omega)
  | render len =>
    have hlen : len.toNat ≤ 65536 := of_decide_eq_true hwf
    simp (disch := omega) only [encode, decode, decodeEvent, eventCode_eventWord, decodeL, field_eventWord]
    refine accept_ok.2 ⟨decide_eq_true (by omega), decide_eq_true (by simp only [Config.maxImageBytes]; omega), ?_⟩
    exact congrArg Instr.render (ofNat_eq_of_toNat (by omega))
  | swSet value =>
    have hvalue : value.toNat < 2 ^ swWidth := of_decide_eq_true hwf
    simp (disch := omega) only [encode, decode, decodeEvent, eventCode_eventWord, decodeSwSet, field_eventWord]
    have hfield : value.toNat / 2 ^ 0 % 2 ^ 32 = value.toNat := by omega
    refine accept_ok.2 ⟨decide_eq_true (by omega), decide_eq_true (by rwa [hfield]), ?_⟩
    exact congrArg Instr.swSet (ofNat_eq_of_toNat (by omega))
  | pWriteIn off byte =>
    simp (disch := omega) only [encode, decode, decodeEvent, eventCode_eventWord, decodeWB, field_eventWord]
    refine accept_ok.2 ⟨Bool.and_eq_true_iff.2 ⟨decide_eq_true (by omega), decide_eq_true (by omega)⟩, rfl, ?_⟩
    congr 1 <;> exact ofNat_eq_of_toNat (by omega)
  | pWriteLen value =>
    simp (disch := omega) only [encode, decode, decodeEvent, eventCode_eventWord, decodeWriteLen, field_eventWord]
    exact accept_ok.2 ⟨decide_eq_true (by omega), rfl, congrArg Instr.pWriteLen (ofNat_eq_of_toNat (by omega))⟩
  | pReadOut off =>
    simp (disch := omega) only [encode, decode, decodeEvent, eventCode_eventWord, decodeR, field_eventWord]
    exact accept_ok.2 ⟨Bool.and_eq_true_iff.2 ⟨decide_eq_true (by omega), decide_eq_true (by omega)⟩, rfl,
      congrArg Instr.pReadOut (ofNat_eq_of_toNat (by omega))⟩
  | tIdent | tInvert | tBrighten | tDarken => rfl
  | tUnsupported sel v => exact congrArg Except.ok (decodeLane_unsupported v (of_decide_eq_true hwf))

/-- Settles O55: case by case, `decode_encode`. -/
theorem decodeOfEncodeIsIdentity : Obligations.DecodeOfEncodeIsIdentity := fun _ _ h => decode_encode h

/-! ### Encoding what decodes -/

section
variable {swWidth : Nat} {w : EventWord} {i : Instr}

theorem encode_of_decodeN {j : Instr} {code : Nat} (hcode : eventCode w = code) (hwf : j.wf swWidth = true)
    (henc : encode j = .event (eventWord code 0)) (h : decodeN w j = .ok i) :
    i.wf swWidth = true ∧ encode i = .event w := by
  obtain ⟨hr, -, rfl⟩ := accept_ok.1 h
  exact ⟨hwf, henc.trans (congrArg _ (eventWord_of_fields hcode (of_decide_eq_true hr)))⟩

theorem encode_of_decodeC (hcode : eventCode w = 0x03) (h : decodeC w = .ok i) :
    i.wf swWidth = true ∧ encode i = .event w := by
  obtain ⟨hr, hc, rfl⟩ := accept_ok.1 h
  simp only [decide_eq_true_eq] at hr hc
  split <;>
  · next hcause =>
    refine ⟨rfl, congrArg _ (eventWord_of_fields hcode ?_)⟩
    simp only [field] at hr hc hcause ⊢
    omega

theorem encode_of_decodeF (hcode : eventCode w = 0x05) (h : decodeF w = .ok i) :
    i.wf swWidth = true ∧ encode i = .event w := by
  obtain ⟨hr, -, rfl⟩ := accept_ok.1 h
  simp only [decide_eq_true_eq] at hr
  refine ⟨rfl, congrArg _ (eventWord_of_fields hcode ?_)⟩
  split <;>
  · next hrender =>
    simp only [decide_eq_true_eq] at hrender
    simp only [field] at hr hrender ⊢
    omega

theorem encode_of_decodeA (hcode : eventCode w = 0x06) (h : decodeA w = .ok i) :
    i.wf swWidth = true ∧ encode i = .event w := by
  obtain ⟨hr, hc, rfl⟩ := accept_ok.1 h
  simp only [decide_eq_true_eq] at hr hc
  refine ⟨decide_eq_true ?_, congrArg _ (eventWord_of_fields hcode ?_)⟩ <;>
    simp only [field, BitVec.toNat_ofNat] at hr hc ⊢ <;> omega

theorem encode_of_decodeL (hcode : eventCode w = 0x07) (h : decodeL w = .ok i) :
    i.wf swWidth = true ∧ encode i = .event w := by
  obtain ⟨hr, hc, rfl⟩ := accept_ok.1 h
  simp only [decide_eq_true_eq] at hr hc
  refine ⟨decide_eq_true ?_, congrArg _ (eventWord_of_fields hcode ?_)⟩ <;>
    simp only [field, BitVec.toNat_ofNat] at hr hc ⊢ <;> omega

theorem encode_of_decodeSwSet (hcode : eventCode w = 0x10) (h : decodeSwSet swWidth w = .ok i) :
    i.wf swWidth = true ∧ encode i = .event w := by
  obtain ⟨hr, hc, rfl⟩ := accept_ok.1 h
  simp only [decide_eq_true_eq] at hr hc
  refine ⟨decide_eq_true ?_, congrArg _ (eventWord_of_fields hcode ?_)⟩ <;>
    simp only [field, BitVec.toNat_ofNat] at hr hc ⊢
  · rwa [Nat.mod_mod]
  · omega

theorem encode_of_decodeWriteLen (hcode : eventCode w = 0x21) (h : decodeWriteLen w = .ok i) :
    i.wf swWidth = true ∧ encode i = .event w := by
  obtain ⟨hr, -, rfl⟩ := accept_ok.1 h
  simp only [decide_eq_true_eq] at hr
  refine ⟨rfl, congrArg _ (eventWord_of_fields hcode ?_)⟩
  simp only [field, BitVec.toNat_ofNat] at hr ⊢
  omega

theorem encode_of_decodeWB (hcode : eventCode w = 0x20) (h : decodeWB w = .ok i) :
    i.wf swWidth = true ∧ encode i = .event w := by
  obtain ⟨hr, -, rfl⟩ := accept_ok.1 h
  simp only [Bool.and_eq_true, decide_eq_true_eq] at hr
  refine ⟨rfl, congrArg _ (eventWord_of_fields hcode ?_)⟩
  simp only [field, BitVec.toNat_ofNat] at hr ⊢
  omega

theorem encode_of_decodeR (hcode : eventCode w = 0x23) (h : decodeR w = .ok i) :
    i.wf swWidth = true ∧ encode i = .event w := by
  obtain ⟨hr, -, rfl⟩ := accept_ok.1 h
  simp only [Bool.and_eq_true, decide_eq_true_eq] at hr
  refine ⟨rfl, congrArg _ (eventWord_of_fields hcode ?_)⟩
  simp only [field, BitVec.toNat_ofNat] at hr ⊢
  omega

theorem encode_of_decodeEvent (h : decodeEvent swWidth w = .ok i) : i.wf swWidth = true ∧ encode i = .event w := by
  unfold decodeEvent at h
  split at h
  case h_1 hcode => exact encode_of_decodeN hcode rfl rfl h
  case h_2 hcode => exact encode_of_decodeN hcode rfl rfl h
  case h_3 hcode => exact encode_of_decodeC hcode h
  case h_4 hcode => exact encode_of_decodeN hcode rfl rfl h
  case h_5 hcode => exact encode_of_decodeF hcode h
  case h_6 hcode => exact encode_of_decodeA hcode h
  case h_7 hcode => exact encode_of_decodeL hcode h
  case h_8 hcode => exact encode_of_decodeSwSet hcode h
  case h_9 hcode => exact encode_of_decodeN hcode rfl rfl h
  case h_10 hcode => exact encode_of_decodeWB hcode h
  case h_11 hcode => exact encode_of_decodeWriteLen hcode h
  case h_12 hcode => exact encode_of_decodeN hcode rfl rfl h
  case h_13 hcode => exact encode_of_decodeR hcode h
  case h_14 => cases h

end

/-- A selector row keeps its selector and byte, and only a selector of 4 or more is UNSUPPORTED. -/
theorem encode_decodeLane (swWidth : Nat) (sel : Word32) (v : Byte) :
    (decodeLane sel v).wf swWidth = true ∧ encode (decodeLane sel v) = .lane sel v := by
  by_cases h : 4 ≤ sel.toNat
  · rw [decodeLane_unsupported v h]
    exact ⟨decide_eq_true h, rfl⟩
  · obtain ⟨n, hn, rfl⟩ : ∃ n, n < 4 ∧ sel = BitVec.ofNat 32 n :=
      ⟨sel.toNat, by omega, by simp⟩
    interval_cases n <;> exact ⟨rfl, rfl⟩

theorem encode_of_decode {swWidth : Nat} {q : Stimulus} {i : Instr} (h : decode swWidth q = .ok i) :
    i.wf swWidth = true ∧ encode i = q := by
  cases q with
  | event w => exact encode_of_decodeEvent h
  | lane sel v => cases h; exact encode_decodeLane swWidth sel v

/-- Settles O56: the reserved bits being 0, code and fields make up the whole word. -/
theorem encodeOfDecodeIsIdentity : Obligations.EncodeOfDecodeIsIdentity := fun _ _ _ h => encode_of_decode h

end Sys2Proof
end

section
/-! Which words are refused (30_encoding.md R79), and what a step does with the next word of the trace (R81). -/

namespace Sys2Proof.Machine

theorem accept_isOk {r c : Bool} {j : Instr} : (∃ i, accept r c j = .ok i) ↔ r = true ∧ c = true := by
  simp only [accept_ok, exists_and_left, exists_eq', and_true]

/-- The bits of `w[55:0]` that the format of `code` reserves are 0. -/
def reservedZero (code : Nat) (w : EventWord) : Prop := ∀ j, j < 56 → fieldBit code j = false → w.getLsbD j = false

section
variable {code : Nat} {w : EventWord}

/-- A format whose reserved bits are one field. -/
theorem field_iff_reservedZero {lo n : Nat} (h : ∀ j, lo ≤ j ∧ j < lo + n ↔ j < 56 ∧ fieldBit code j = false) :
    decide (field w lo n = 0) = true ↔ reservedZero code w := by
  simp only [decide_eq_true_eq, field_eq_zero_iff, reservedZero, ← and_imp, h]

/-- A format whose reserved bits are two fields. -/
theorem fields_iff_reservedZero {lo n lo' n' : Nat}
    (h : ∀ j, (lo ≤ j ∧ j < lo + n) ∨ (lo' ≤ j ∧ j < lo' + n') ↔ j < 56 ∧ fieldBit code j = false) :
    (decide (field w lo n = 0) && decide (field w lo' n' = 0)) = true ↔ reservedZero code w := by
  simp only [Bool.and_eq_true, decide_eq_true_eq, field_eq_zero_iff, reservedZero, ← and_imp, ← h, or_imp, forall_and]

/-- The constraint that R76 to R78 put on the one code it concerns. -/
theorem constraintHolds_iff (swWidth : Nat) (h : eventCode w = code) : constraintHolds swWidth w ↔
    (code = 0x03 → field w 0 2 < 2) ∧ (code = 0x06 → field w 0 17 ≤ Config.maxImageBytes) ∧
    (code = 0x07 → field w 0 17 ≤ Config.maxImageBytes) ∧ (code = 0x10 → field w 0 32 < 2 ^ swWidth) := by
  rw [← h, eventCode_eq]
  simp only [constraintHolds, field, pow_zero, Nat.div_one, Config.maxImageBytes]
  rfl

/-! ### When each format accepts -/

variable (swWidth : Nat)

theorem decodeN_isOk (hcode : eventCode w = code) (hfield : ∀ j, fieldBit code j = false)
    (hfree : code ∉ [0x03, 0x06, 0x07, 0x10]) (i : Instr) :
    (∃ j, decodeN w i = .ok j) ↔ reservedZero code w ∧ constraintHolds swWidth w := by
  refine accept_isOk.trans (and_congr (field_iff_reservedZero fun j => ?_) ?_)
  · simp [hfield]
  · simp only [List.mem_cons, List.not_mem_nil, or_false, not_or] at hfree
    simp [constraintHolds_iff swWidth hcode, hfree]

theorem decodeC_isOk (hcode : eventCode w = 0x03) :
    (∃ i, decodeC w = .ok i) ↔ reservedZero 0x03 w ∧ constraintHolds swWidth w :=
  accept_isOk.trans (and_congr (field_iff_reservedZero fun j => by simp [fieldBit]; omega)
    (by simp [constraintHolds_iff swWidth hcode]))

theorem decodeF_isOk (hcode : eventCode w = 0x05) :
    (∃ i, decodeF w = .ok i) ↔ reservedZero 0x05 w ∧ constraintHolds swWidth w :=
  accept_isOk.trans (and_congr (field_iff_reservedZero fun j => by simp [fieldBit]; omega)
    (by simp [constraintHolds_iff swWidth hcode]))

theorem decodeA_isOk (hcode : eventCode w = 0x06) :
    (∃ i, decodeA w = .ok i) ↔ reservedZero 0x06 w ∧ constraintHolds swWidth w :=
  accept_isOk.trans (and_congr (field_iff_reservedZero fun j => by simp [fieldBit]; omega)
    (by simp [constraintHolds_iff swWidth hcode]))

theorem decodeL_isOk (hcode : eventCode w = 0x07) :
    (∃ i, decodeL w = .ok i) ↔ reservedZero 0x07 w ∧ constraintHolds swWidth w :=
  accept_isOk.trans (and_congr (field_iff_reservedZero fun j => by simp [fieldBit]; omega)
    (by simp [constraintHolds_iff swWidth hcode]))

theorem decodeSwSet_isOk (hcode : eventCode w = 0x10) :
    (∃ i, decodeSwSet swWidth w = .ok i) ↔ reservedZero 0x10 w ∧ constraintHolds swWidth w :=
  accept_isOk.trans (and_congr (field_iff_reservedZero fun j => by simp [fieldBit]; omega)
    (by simp [constraintHolds_iff swWidth hcode]))

theorem decodeWriteLen_isOk (hcode : eventCode w = 0x21) :
    (∃ i, decodeWriteLen w = .ok i) ↔ reservedZero 0x21 w ∧ constraintHolds swWidth w :=
  accept_isOk.trans (and_congr (field_iff_reservedZero fun j => by simp [fieldBit]; omega)
    (by simp [constraintHolds_iff swWidth hcode]))

theorem decodeWB_isOk (hcode : eventCode w = 0x20) :
    (∃ i, decodeWB w = .ok i) ↔ reservedZero 0x20 w ∧ constraintHolds swWidth w :=
  accept_isOk.trans (and_congr (fields_iff_reservedZero fun j => by simp [fieldBit]; omega)
    (by simp [constraintHolds_iff swWidth hcode]))

theorem decodeR_isOk (hcode : eventCode w = 0x23) :
    (∃ i, decodeR w = .ok i) ↔ reservedZero 0x23 w ∧ constraintHolds swWidth w :=
  accept_isOk.trans (and_congr (fields_iff_reservedZero fun j => by simp [fieldBit]; omega)
    (by simp [constraintHolds_iff swWidth hcode]))

end

/-- Settles O57: the decoder goes by the code, and the format of each assigned code accepts as R79 says. -/
theorem wordRefusedExactlyByR79 : Obligations.WordRefusedExactlyByR79 := by
  intro swWidth w
  rw [← eventCode_eq]
  change _ ↔ _ ∧ reservedZero (eventCode w) w ∧ _
  have assigned : ∀ {code : Nat} {p : Prop}, eventCode w = code → code ∈ eventCodes →
      (p ↔ reservedZero code w ∧ constraintHolds swWidth w) →
      (p ↔ eventCode w ∈ eventCodes ∧ reservedZero (eventCode w) w ∧ constraintHolds swWidth w) := by
    rintro code p hcode hmem h
    rw [hcode, h, and_iff_right hmem]
  unfold decodeEvent
  split
  case h_1 hcode => exact assigned hcode (by decide) (decodeN_isOk swWidth hcode (fun _ => rfl) (by decide) _)
  case h_2 hcode => exact assigned hcode (by decide) (decodeN_isOk swWidth hcode (fun _ => rfl) (by decide) _)
  case h_3 hcode => exact assigned hcode (by decide) (decodeC_isOk swWidth hcode)
  case h_4 hcode => exact assigned hcode (by decide) (decodeN_isOk swWidth hcode (fun _ => rfl) (by decide) _)
  case h_5 hcode => exact assigned hcode (by decide) (decodeF_isOk swWidth hcode)
  case h_6 hcode => exact assigned hcode (by decide) (decodeA_isOk swWidth hcode)
  case h_7 hcode => exact assigned hcode (by decide) (decodeL_isOk swWidth hcode)
  case h_8 hcode => exact assigned hcode (by decide) (decodeSwSet_isOk swWidth hcode)
  case h_9 hcode => exact assigned hcode (by decide) (decodeN_isOk swWidth hcode (fun _ => rfl) (by decide) _)
  case h_10 hcode => exact assigned hcode (by decide) (decodeWB_isOk swWidth hcode)
  case h_11 hcode => exact assigned hcode (by decide) (decodeWriteLen_isOk swWidth hcode)
  case h_12 hcode => exact assigned hcode (by decide) (decodeN_isOk swWidth hcode (fun _ => rfl) (by decide) _)
  case h_13 hcode => exact assigned hcode (by decide) (decodeR_isOk swWidth hcode)
  case h_14 => simp_all [eventCodes]

/-- Settles O58: the decoder evaluated on the seven words. -/
theorem writtenWordsDecode : Obligations.WrittenWordsDecode := by
  refine ⟨?_, ?_, ?_, ?_, ?_, ?_, ?_⟩ <;> decide

/-! ### The step -/

theorem step_of_decode_ok {q : Stimulus} {rest : List Stimulus} {i : Instr} {s : State} (hq : s.events = q :: rest)
    (hi : decode s.cfg.swWidth q = .ok i) : step s = exec i { s with events := rest } := by
  simp only [step, nextEvent, hq, hi]

theorem step_of_decode_error {q : Stimulus} {rest : List Stimulus} {r : Reject} {s : State} (hq : s.events = q :: rest)
    (hr : decode s.cfg.swWidth q = .error r) : step s = .next (refuseWord { s with events := rest }) := by
  simp only [step, nextEvent, hq, hr]

theorem step_of_no_events {s : State} (h : s.events = []) : step s = .next s := by
  simp only [step, nextEvent, h]

/-- A step waits, runs the decoded event, or sets the refusal mark. -/
theorem step_cases {s t : State} (h : step s = .next t) :
    t = s ∨
    (∃ rest i, i.wf s.cfg.swWidth = true ∧ exec i { s with events := rest } = .next t) ∨
    ∃ rest, t = refuseWord { s with events := rest } := by
  cases hq : s.events with
  | nil => exact .inl (Host.Outcome.next.inj ((step_of_no_events hq).symm.trans h)).symm
  | cons q rest =>
    cases hd : decode s.cfg.swWidth q with
    | ok i => exact .inr (.inl ⟨rest, i, (encode_of_decode hd).1, (step_of_decode_ok hq hd).symm.trans h⟩)
    | error r => exact .inr (.inr ⟨rest, (Host.Outcome.next.inj ((step_of_decode_error hq hd).symm.trans h)).symm⟩)

/-- Settles O59: the two forms of a step with an accepted word and with none. -/
theorem stepRunsTheDecodedEvent : Obligations.StepRunsTheDecodedEvent :=
  ⟨fun _ _ _ _ hq hi => step_of_decode_ok hq hi, fun _ h => step_of_no_events h⟩

/-- Settles O60: the form of a step with a refused word. -/
theorem refusedWordOnlySetsTheMark : Obligations.RefusedWordOnlySetsTheMark :=
  fun _ _ _ _ hq hr => step_of_decode_error hq hr

end Sys2Proof.Machine
end

section
/-! The invariant of the machine: each named operation keeps it, so every event and every step does. -/

namespace Sys2Proof.Machine

/-! ### Regions -/

theorem Memory.ok_nil (size : Nat) : Memory.ok size [] := ⟨List.Pairwise.nil, fun _ hc => absurd hc List.not_mem_nil⟩

theorem Memory.ok_write {m : Memory} {size x : Nat} (hm : m.ok size) (hx : x < size) (v : Byte) : (m.write x v).ok size :=
  ⟨Memory.write_wf hm.1 x v, Memory.write_within hm.2 hx v⟩

theorem Memory.ok_writePrefix {m : Memory} {size : Nat} (hm : m.ok size) {bs : List Byte} (h : bs.length ≤ size) :
    (m.writePrefix bs).ok size :=
  ⟨Memory.writePrefix_wf hm.1 bs, Memory.writePrefix_within hm.2 h⟩

theorem clampLen_le (n : Word32) : clampLen n ≤ Config.maxImageBytes := Nat.min_le_right _ _

/-! ### Switch vectors -/

theorem word_or_lt {a b : Word32} {w : Nat} (ha : a.toNat < 2 ^ w) (hb : b.toNat < 2 ^ w) : (a ||| b).toNat < 2 ^ w := by
  rw [BitVec.toNat_or]
  exact Nat.or_lt_two_pow ha hb

theorem word_xor_lt {a b : Word32} {w : Nat} (ha : a.toNat < 2 ^ w) (hb : b.toNat < 2 ^ w) : (a ^^^ b).toNat < 2 ^ w := by
  rw [BitVec.toNat_xor]
  exact Nat.xor_lt_two_pow ha hb

theorem word_and_lt {a : Word32} (b : Word32) {w : Nat} (ha : a.toNat < 2 ^ w) : (a &&& b).toNat < 2 ^ w := by
  rw [BitVec.toNat_and]
  exact Nat.lt_of_le_of_lt Nat.and_le_left ha

/-! ### Operations that keep the invariant -/

namespace State.Inv
variable {s t : State} (hs : s.Inv)
include hs

theorem raiseFault (f : FaultRecord) : (raiseFault f s).Inv :=
  { hs with
    gieOff := nofun
    gieOn := nofun
    faultRecorded := fun _ => recordFault_isSome f s.fault
    ackPassedExit := nofun }

theorem takeSnapshot (hp : s.phase ≠ .ack) : (takeSnapshot s).Inv :=
  { hs with
    snapBits := hs.swBits
    ackPassedExit := fun h => absurd h hp }

/-- In IDLE, where every dispatch begins. -/
theorem enterDispatch (hp : s.phase = .idle) : (enterDispatch s).Inv := by
  have hperiod : (Machine.enterDispatch s).timerPeriod = s.cfg.timerPeriod := by
    rw [enterDispatch_timerPeriod]
    split
    · rfl
    · exact hs.period
  rw [enterDispatch_eq]
  exact { hs with
    snapBits := hs.swBits
    period := hperiod
    ackPassedExit := fun h => absurd (hp.symm.trans h) (by decide) }

theorem setPrevConfirm (c : Bool) : State.Inv { s with prevConfirm := c } := { hs with }

theorem emit (k : Token) : (emit k s).Inv := { hs with }

theorem writeSurface {bs : List Byte} (h : bs.length = Config.surfPixels) : (writeSurface bs s).Inv :=
  { hs with fbOk := Memory.ok_writePrefix hs.fbOk h.le }

theorem writeLocal {bs : List Byte} (h : bs.length ≤ Config.maxImageBytes) : (writeLocal bs s).Inv :=
  { hs with localOk := Memory.ok_writePrefix hs.localOk h }

theorem writeOut {bs : List Byte} (h : bs.length ≤ Config.maxImageBytes) : (writeOut bs s).Inv :=
  { hs with outOk := Memory.ok_writePrefix hs.outOk h }

theorem setLen (v : Word32) : State.Inv { s with len := v } := { hs with }

theorem runTransfer {k : Word32} {render : Bool} (h : runTransfer k render s = .ok t) : t.Inv := by
  rcases runTransfer_ok h with ⟨-, rfl⟩ | ⟨bs, -, hr, h⟩
  · exact hs
  · have hlen : (bs.map (transformByte (selectTransform k))).length ≤ Config.maxImageBytes := by
      rw [List.length_map, (readIn_ok hr).1]
      exact clampLen_le s.len
    have hmoved : (transferred k bs s).Inv := (hs.writeLocal hlen).writeOut hlen
    rcases h with ⟨-, rfl⟩ | ⟨-, -, rfl⟩ | ⟨-, side, -, -, rfl⟩
    · exact hmoved.setLen 0
    · exact (hmoved.emit _).setLen 0
    · exact (hmoved.writeSurface (frameBytes_length _ _)).setLen 0

theorem finishBoot : (returnToIdle { s with gie := true }).Inv :=
  { hs with
    gieOff := nofun
    gieOn := fun _ => rfl
    faultRecorded := nofun
    ackPassedExit := nofun }

theorem awaitAck (hg : s.gie = true) (hx : exitBit s.snap = false) : State.Inv { s with phase := .ack } :=
  { hs with
    gieOff := nofun
    gieOn := fun _ => hg
    faultRecorded := nofun
    ackPassedExit := fun _ => hx }

theorem acknowledge (hp : s.phase = .ack) (w : Word32) : (returnToIdle (digitUpdate (writeEdgeCapture w s))).Inv :=
  { hs with
    edgecapBits := word_and_lt _ hs.edgecapBits
    gieOff := nofun
    gieOn := fun _ => hs.gieOn (.inr hp)
    faultRecorded := nofun
    ackPassedExit := nofun }

theorem execReset (h : execReset s = .next t) : t.Inv := by
  cases h
  exact { hs with
    snapBits := Nat.two_pow_pos _
    edgecapBits := drawnEdgecap_lt s
    period := rfl
    localOk := Memory.ok_nil _
    fbOk := Memory.ok_nil _
    gieOff := fun _ => rfl
    gieOn := nofun
    faultRecorded := nofun
    ackPassedExit := nofun }

/-- Every event with an encoding keeps the invariant. -/
theorem exec {i : Instr} (hwf : i.wf s.cfg.swWidth = true) (h : exec i s = .next t) : t.Inv := by
  cases exec_effect h with
  | reset h => exact hs.execReset h
  | faulted f => exact hs.raiseFault f
  | boot hp hu => exact ((hs.takeSnapshot (by simp [hp])).runTransfer hu).finishBoot
  | timer hp => exact { hs.enterDispatch hp with }
  | switchExit hp => exact hs.enterDispatch hp
  | switchQuiet hp hg hx =>
    exact ((hs.enterDispatch hp).setPrevConfirm (confirmBit s.sw)).awaitAck ((enterDispatch_gie s).trans hg)
      (by simpa only [enterDispatch_snap] using hx)
  | switchTransfer hp hg hx _ hu =>
    have hfields := And.intro (runTransfer_gie hu) (runTransfer_snap hu)
    simp only [enterDispatch_gie, enterDispatch_snap] at hfields
    exact (((hs.enterDispatch hp).setPrevConfirm _).runTransfer hu).awaitAck (hfields.1.trans hg) (hfields.2 ▸ hx)
  | ack hp => exact hs.acknowledge hp _
  | transfer hp hu => exact hs.runTransfer hu
  | @apply len k bs hp hr =>
    refine hs.writeLocal ?_
    rw [List.length_map, (readLocal_ok hr).1]
    exact of_decide_eq_true hwf
  | report => exact hs.emit _
  | frame _ hl => exact hs.writeSurface hl
  | swSet v =>
    have hv : v.toNat < 2 ^ s.cfg.swWidth := of_decide_eq_true hwf
    exact { hs with swBits := hv, edgecapBits := word_or_lt hs.edgecapBits (word_xor_lt hs.swBits hv) }
  | timerExpire => exact { hs with }
  | writeIn off b => exact { hs with inOk := Memory.ok_write hs.inOk off.isLt b }
  | writeLen v => exact hs.setLen v
  | answered => exact { hs with }

end State.Inv

/-- Settles O54: a step waits, runs an event with an encoding on the state without its head, or sets the refusal mark. -/
theorem stepKeepsTheInvariant : Obligations.StepKeepsTheInvariant := by
  intro s t hs h
  have hrest : ∀ rest, State.Inv { s with events := rest } := fun rest => { hs with }
  rcases step_cases h with rfl | ⟨rest, i, hwf, hi⟩ | ⟨rest, rfl⟩
  · exact hs
  · exact (hrest rest).exec hwf hi
  · exact { hrest rest with }

/-- Settles O4: at reset every vector is 0, every region is empty and the phase is BOOT. -/
theorem invariantHoldsAtReset : Obligations.InvariantHoldsAtReset where
  params := by decide
  swBits := by decide
  snapBits := by decide
  edgecapBits := by decide
  period := rfl
  inOk := Memory.ok_nil _
  outOk := Memory.ok_nil _
  localOk := Memory.ok_nil _
  fbOk := Memory.ok_nil _
  gieOff := fun _ => rfl
  gieOn := by decide
  faultRecorded := by decide
  ackPassedExit := by decide

/-- Settles O2: the record of State.reset, and reads of empty regions. -/
theorem resetStateHoldsGivenValues : Obligations.ResetStateHoldsGivenValues :=
  ⟨rfl, rfl, rfl, rfl, rfl, rfl, rfl, rfl, rfl, fun x => ⟨Memory.read_nil x, Memory.read_nil x⟩⟩

end Sys2Proof.Machine
end

section
/-! When an event steps (60_exceptions.md R146, R149), and what follows from the phase it needs. -/

namespace Sys2Proof.Machine

/-- The event steps from `s` exactly where it is enabled, and elsewhere stops by its agent's reason. -/
def StepsExactlyWhenEnabled (i : Instr) (s : State) : Prop :=
  (enabled i s = true → ∃ t, exec i s = .next t) ∧
  (enabled i s = false →
    (i.agent = .block ∧ ∃ e, exec i s = .fault (.blockNotEnabled e)) ∨
    (i.agent = .producer ∧ ∃ e, exec i s = .fault (.producerNotEnabled e)))

section
variable {i : Instr} {s : State}

theorem stepsExactlyWhenEnabled_of_always (he : enabled i s = true) (h : ∃ t, exec i s = .next t) :
    StepsExactlyWhenEnabled i s :=
  ⟨fun _ => h, fun hd => absurd (he.symm.trans hd) (by decide)⟩

theorem stepsExactlyWhenEnabled_of_block {e : String} {r : Result} (ha : i.agent = .block)
    (h : exec i s = blockEvent (enabled i s) e r) (hr : ∃ t, r = .next t) : StepsExactlyWhenEnabled i s := by
  refine ⟨fun he => ?_, fun hd => .inl ⟨ha, e, ?_⟩⟩
  · rwa [h, he, blockEvent_true]
  · rw [h, hd, blockEvent_false]

theorem stepsExactlyWhenEnabled_of_producer {e : String} {r : Result} (ha : i.agent = .producer)
    (h : exec i s = producerEvent (enabled i s) e r) (hr : ∃ t, r = .next t) : StepsExactlyWhenEnabled i s := by
  refine ⟨fun he => ?_, fun hd => .inr ⟨ha, e, ?_⟩⟩
  · rwa [h, he, producerEvent_true]
  · rw [h, hd, producerEvent_false]

end

theorem enabled_dispatchTimer (s : State) : enabled .dispatchTimer s = (dispatchOpen s && irqTimer s) :=
  Bool.and_assoc _ _ _

theorem enabled_dispatchSwitch (s : State) : enabled .dispatchSwitch s = (dispatchOpen s && irqSwitch s) := rfl

theorem stepsExactlyWhenEnabled (i : Instr) (s : State) : StepsExactlyWhenEnabled i s := by
  cases i with
  | boot | dispatchSwitch | runTransfer | apply | render =>
    exact stepsExactlyWhenEnabled_of_block rfl rfl (commit_isNext s _)
  | ack => exact stepsExactlyWhenEnabled_of_block rfl rfl ⟨_, rfl⟩
  | dispatchTimer =>
    exact stepsExactlyWhenEnabled_of_block rfl (congrArg (blockEvent · _ _) (enabled_dispatchTimer s).symm) ⟨_, rfl⟩
  | pWriteIn | pWriteLen => exact stepsExactlyWhenEnabled_of_producer rfl rfl ⟨_, rfl⟩
  | pReadOut off =>
    refine stepsExactlyWhenEnabled_of_always rfl ?_
    obtain ⟨b, -, -, h⟩ | ⟨-, h⟩ := execPReadOut_cases off s <;> exact ⟨_, h⟩
  | reset | swSet | timerExpire | pReadLen | tIdent | tInvert | tBrighten | tDarken | tUnsupported =>
    exact stepsExactlyWhenEnabled_of_always rfl ⟨_, rfl⟩

/-- Settles O43: each meaning is its guard, which is the enabling condition, around an effect that always answers. -/
theorem eventsStepExactlyWhenEnabled : Obligations.EventsStepExactlyWhenEnabled := stepsExactlyWhenEnabled

theorem exec_next_of_enabled {i : Instr} {s : State} (h : enabled i s = true) : ∃ t, exec i s = .next t :=
  (stepsExactlyWhenEnabled i s).1 h

theorem enabled_of_exec_next {i : Instr} {s t : State} (h : exec i s = .next t) : enabled i s = true := by
  by_contra hd
  rcases (stepsExactlyWhenEnabled i s).2 (Bool.eq_false_iff.2 hd) with ⟨-, e, he⟩ | ⟨-, e, he⟩ <;> cases he.symm.trans h

/-- Settles O44: each of these events needs the phase BOOT, IDLE or ACK. -/
theorem noBlockEventInAckOrFault : Obligations.NoBlockEventInAckOrFault := by
  intro i s t h
  have other : ∀ j, enabled j s = false → i ≠ j := by
    rintro j hj rfl
    exact absurd (hj.symm.trans (enabled_of_exec_next h)) (by decide)
  refine ⟨fun hp => ?_, fun hp => other _ (by simp [enabled, hp])⟩
  have hboot : s.phase ≠ .boot := by rcases hp with hp | hp <;> simp [hp]
  have hidle : s.phase ≠ .idle := by rcases hp with hp | hp <;> simp [hp]
  exact ⟨other _ (by simp [enabled, hboot]), other _ (by simp [enabled, hidle]), other _ (by simp [enabled, hidle]),
    fun _ => other _ (by simp [enabled, hidle]), fun _ _ => other _ (by simp [enabled, hidle]),
    fun _ => other _ (by simp [enabled, hidle])⟩

/-- Settles O3: every other event of the block needs the phase IDLE or ACK. -/
theorem onlyBootOrResetStartsARun : Obligations.OnlyBootOrResetStartsARun := by
  refine ⟨rfl, fun i s t hp h hagent => ?_⟩
  have he := enabled_of_exec_next h
  cases i with
  | reset | boot | tIdent | tInvert | tBrighten | tDarken | tUnsupported => simp
  | dispatchTimer | dispatchSwitch | ack | runTransfer | apply | render => simp [enabled, hp] at he
  | swSet | timerExpire | pWriteIn | pWriteLen | pReadLen | pReadOut => cases hagent

/-! ### The end of a run (R163) -/

/-- In a settled state none of the block's own events is enabled. -/
theorem State.settled.not_enabled {s : State} (hs : s.settled) {i : Instr} (hi : ownEvent i = true) : enabled i s = false := by
  obtain ⟨hp, -, -, ht, hw⟩ := hs
  cases i with
  | boot | ack => simp [enabled, hp]
  | dispatchTimer => rw [enabled_dispatchTimer, ht, Bool.and_false]
  | dispatchSwitch => rw [enabled_dispatchSwitch, hw, Bool.and_false]
  | _ => cases hi

theorem agent_of_ownEvent {i : Instr} (hi : ownEvent i = true) : i.agent = .block := by
  cases i with
  | boot | dispatchTimer | dispatchSwitch | ack => rfl
  | _ => cases hi

/-- A state of the invariant, without fault or refusal, in which none of the block's own events steps. -/
theorem State.Inv.settled {s : State} (hs : s.Inv) (hf : s.fault = none) (hr : s.refused = false)
    (hwait : ∀ i, ownEvent i = true → enabled i s = false) : s.settled := by
  have hboot : s.phase ≠ .boot := fun hp => by simpa [enabled, hp] using hwait .boot rfl
  have hack : s.phase ≠ .ack := fun hp => by simpa [enabled, hp] using hwait .ack rfl
  have hfault : s.phase ≠ .fault := fun hp => by simpa [hf] using hs.faultRecorded hp
  have hidle : s.phase = .idle := by
    cases hp : s.phase with
    | boot => exact absurd hp hboot
    | idle => rfl
    | ack => exact absurd hp hack
    | fault => exact absurd hp hfault
  have hopen : dispatchOpen s = true := by simp [dispatchOpen, hidle, hs.gieOn (.inl hidle)]
  have htimer := hwait .dispatchTimer rfl
  have hswitch := hwait .dispatchSwitch rfl
  rw [enabled_dispatchTimer, hopen, Bool.true_and] at htimer
  rw [enabled_dispatchSwitch, hopen, Bool.true_and] at hswitch
  exact ⟨hidle, hf, hr, htimer, hswitch⟩

/-- From a settled state the run ends at once: a longer run would pass that settled state first. -/
theorem settlesAt_iff_of_settled {u t : State} (hu : u.settled) : SettlesAt u t ↔ t = u := by
  constructor
  · rintro ⟨own, -, hrun, -, hfirst⟩
    cases own with
    | nil => exact (Option.some.inj hrun).symm
    | cons i is => exact absurd hu (hfirst [] (i :: is) u rfl (List.cons_ne_nil i is) rfl)
  · rintro rfl
    refine ⟨[], by simp, rfl, hu, fun a b v hab hb => ?_⟩
    exact absurd (List.append_eq_nil_iff.1 hab.symm).2 hb

/-- Settles O53: by the enabling conditions of the block's own events, and the uniqueness of the first settled state. -/
theorem settledBlockWaits : Obligations.SettledBlockWaits := by
  refine ⟨fun s hs i hi => ?waits, fun s hs hf hr hwait => hs.settled hf hr fun i hi => ?settled, fun s u t hu hset => ?ends,
    fun s o ho => ?observed⟩
  case waits =>
    rcases (stepsExactlyWhenEnabled i s).2 (hs.not_enabled hi) with ⟨-, h⟩ | ⟨ha, -⟩
    · exact h
    · cases (agent_of_ownEvent hi).symm.trans ha
  case settled =>
    by_contra he
    obtain ⟨t, ht⟩ := exec_next_of_enabled (Bool.not_eq_false _ ▸ he)
    exact hwait i t hi ht
  case ends =>
    simp only [EndsAt, hu, Option.some.injEq, exists_eq_left', settlesAt_iff_of_settled hset]
  case observed =>
    obtain ⟨t, hends, rfl⟩ := ho
    obtain ⟨u, -, own, -, -, ⟨hp, hf, hr, ht, hw⟩, -⟩ := id hends
    exact ⟨t, hp, hf, hr, ht, hw, rfl, rfl, rfl, rfl, rfl, rfl, hends⟩

end Sys2Proof.Machine
end

section
/-! Rules about every event: who may write which field. Each is a case analysis of `exec_effect`. -/

namespace Sys2Proof.Machine

/-! ### The run's record (10_state.md R37 to R40) -/

/-- What no step takes back: the fault record, the refusal mark, the tokens and the parameters. -/
structure RecordKept (s t : State) : Prop where
  fault : ∀ f, s.fault = some f → t.fault = some f
  newFault : t.fault ≠ s.fault → t.phase = .fault
  refused : s.refused = true → t.refused = true
  trace : s.trace <+: t.trace
  cfg : t.cfg = s.cfg

theorem recordKept_of_eq {s t : State} (hfault : t.fault = s.fault) (hrefused : t.refused = s.refused)
    (htrace : s.trace <+: t.trace) (hcfg : t.cfg = s.cfg) : RecordKept s t :=
  ⟨fun _ h => hfault.trans h, fun h => absurd hfault h, fun h => hrefused.trans h, htrace, hcfg⟩

theorem recordKept_raiseFault (f : FaultRecord) (s : State) : RecordKept s (raiseFault f s) where
  fault g hg := by rw [raiseFault_fault, hg, recordFault_some]
  newFault _ := rfl
  refused h := h
  trace := List.prefix_rfl
  cfg := rfl

theorem enterDispatch_trace_prefix (s : State) : s.trace <+: (enterDispatch s).trace := by
  rw [enterDispatch_trace]
  split
  · exact List.prefix_append _ _
  · exact List.prefix_rfl

theorem recordKept_exec {i : Instr} {s t : State} (h : exec i s = .next t) : RecordKept s t := by
  cases exec_effect h with
  | reset h => cases h; exact recordKept_of_eq rfl rfl List.prefix_rfl rfl
  | faulted f => exact recordKept_raiseFault f s
  | boot _ hu | transfer _ hu =>
    obtain ⟨hfault, hrefused, htrace, hcfg⟩ := runTransfer_record hu
    exact recordKept_of_eq hfault hrefused htrace hcfg
  | timer | switchExit | switchQuiet => exact recordKept_of_eq (by simp) (by simp) (enterDispatch_trace_prefix s) (by simp)
  | switchTransfer _ _ _ _ hu =>
    obtain ⟨hfault, hrefused, htrace, hcfg⟩ := runTransfer_record hu
    exact recordKept_of_eq (hfault.trans (enterDispatch_fault s)) (hrefused.trans (enterDispatch_refused s))
      ((enterDispatch_trace_prefix s).trans htrace) (hcfg.trans (enterDispatch_cfg s))
  | report => exact recordKept_of_eq rfl rfl (List.prefix_append _ _) rfl
  | ack | apply | frame | swSet | timerExpire | writeIn | writeLen | answered =>
    exact recordKept_of_eq rfl rfl List.prefix_rfl rfl

/-- Settles O45: a step waits, runs an event, or sets the refusal mark; each keeps the record. -/
theorem recordIsNeverCleared : Obligations.RecordIsNeverCleared := by
  intro s t h
  suffices hkept : RecordKept s t from ⟨hkept.fault, hkept.newFault, hkept.refused, hkept.trace, hkept.cfg⟩
  rcases step_cases h with rfl | ⟨rest, i, -, hi⟩ | ⟨rest, rfl⟩
  · exact recordKept_of_eq rfl rfl List.prefix_rfl rfl
  · exact { recordKept_exec hi with }
  · exact ⟨fun _ h => h, fun h => absurd rfl h, fun _ => rfl, List.prefix_rfl, rfl⟩

/-! ### The retained confirm bit (R27, R128) -/

/-- Where a switch dispatch awaits its ACK it has retained the confirm bit of the switches, whether or not it transferred. -/
theorem execDispatchSwitch_prevConfirm {s t : State} (h : execDispatchSwitch s = .next t) (ht : t.phase = .ack) :
    exitBit s.sw = false ∧ t.prevConfirm = confirmBit s.sw := by
  cases execDispatchSwitch_effect h with
  | faulted => cases ht
  | switchExit hp => simp [hp] at ht
  | switchQuiet _ _ hx => exact ⟨hx, rfl⟩
  | switchTransfer _ _ hx _ hu => exact ⟨hx, runTransfer_prevConfirm hu⟩
  | answered hi => cases hi

/-- Settles O47: of the effects only RESET and the two of a switch dispatch past the exit test write the retained bit. -/
theorem retainedConfirmWrittenOnlyByService : Obligations.RetainedConfirmWrittenOnlyByService := by
  refine ⟨fun i s t h hne => ?_, fun s t h ht => (execDispatchSwitch_prevConfirm h ht).2⟩
  cases exec_effect h with
  | reset h => cases h; exact .inl ⟨rfl, rfl⟩
  | switchQuiet _ _ hx => exact .inr ⟨rfl, hx, rfl⟩
  | switchTransfer _ _ hx => exact .inr ⟨rfl, hx, rfl⟩
  | boot _ hu | transfer _ hu => exact absurd (runTransfer_prevConfirm hu) hne
  | timer | switchExit => exact absurd (enterDispatch_prevConfirm s) hne
  | _ => exact absurd rfl hne

/-! ### The tick count (R28, R134) -/

theorem timerTo_of_enterDispatch_ticks {s : State} (h : (enterDispatch s).timeoutCount ≠ s.timeoutCount) :
    s.timerTo = true ∧ (enterDispatch s).timerTo = false ∧ (enterDispatch s).timeoutCount = s.timeoutCount + 1 := by
  rw [enterDispatch_timeoutCount] at h ⊢
  split at h
  · next hto => exact ⟨hto, enterDispatch_timerTo s, if_pos hto⟩
  · exact absurd rfl h

/-- Settles O48: the effects of the two dispatches begin with steps 1 and 2, which count a pending tick. -/
theorem tickCountedOnlyByDispatch : Obligations.TickCountedOnlyByDispatch := by
  intro i s t h hne
  cases exec_effect h with
  | reset h => cases h; exact .inl ⟨rfl, rfl⟩
  | timer => exact .inr ⟨.inl rfl, timerTo_of_enterDispatch_ticks hne⟩
  | switchExit | switchQuiet => exact .inr ⟨.inr rfl, timerTo_of_enterDispatch_ticks hne⟩
  | switchTransfer _ _ _ _ hu =>
    have hticks := timerTo_of_enterDispatch_ticks ((runTransfer_timeoutCount hu).symm ▸ hne)
    obtain ⟨hto, hcleared, hcount⟩ := hticks
    exact .inr ⟨.inr rfl, hto, (runTransfer_timerTo hu).trans hcleared, (runTransfer_timeoutCount hu).trans hcount⟩
  | boot _ hu | transfer _ hu => exact absurd (runTransfer_timeoutCount hu) hne
  | _ => exact absurd rfl hne

/-! ### The length register and the buffers (R32 to R34, R60, R89, R99) -/

/-- Settles O49: a transfer leaves the length register 0, the producer's write finds it 0, no other effect writes it. -/
theorem lengthRegisterOwnership : Obligations.LengthRegisterOwnership := by
  intro i s t h hne
  have cleared : t.len = 0 → mayTransfer i = true →
      (s.len = 0 ∧ i = .pWriteLen t.len) ∨ (s.len ≠ 0 ∧ t.len = 0 ∧ mayTransfer i = true) :=
    fun ht hi => .inr ⟨fun hs => hne (ht.trans hs.symm), ht, hi⟩
  cases exec_effect h with
  | reset h => cases h; exact absurd rfl hne
  | writeLen v hl => exact .inl ⟨hl, rfl⟩
  | boot _ hu | transfer _ hu | switchTransfer _ _ _ _ hu =>
    have hlen := runTransfer_len hu
    exact cleared hlen rfl
  | timer | switchExit | switchQuiet => exact absurd (enterDispatch_len s) hne
  | _ => exact absurd rfl hne

theorem exec_inBuf {i : Instr} {s t : State} (h : exec i s = .next t) (hne : t.inBuf ≠ s.inBuf) :
    s.len = 0 ∧ ∃ off b, i = .pWriteIn off b := by
  cases exec_effect h with
  | reset h => cases h; exact absurd rfl hne
  | writeIn off b hl => exact ⟨hl, off, b, rfl⟩
  | boot _ hu | transfer _ hu => exact absurd (runTransfer_inBuf hu) hne
  | switchTransfer _ _ _ _ hu => exact absurd ((runTransfer_inBuf hu).trans (enterDispatch_inBuf s)) hne
  | timer | switchExit | switchQuiet => exact absurd (enterDispatch_inBuf s) hne
  | _ => exact absurd rfl hne

/-- A transfer that changes OutBuffer found a length pending and acknowledged it. -/
theorem runTransfer_outBuf {k : Word32} {render : Bool} {s t : State} (h : runTransfer k render s = .ok t)
    (hne : t.outBuf ≠ s.outBuf) : s.len ≠ 0 ∧ t.len = 0 :=
  ⟨fun hl => hne (congrArg State.outBuf (runTransfer_eq_self h hl)), runTransfer_len h⟩

theorem exec_outBuf {i : Instr} {s t : State} (h : exec i s = .next t) (hne : t.outBuf ≠ s.outBuf) :
    s.len ≠ 0 ∧ t.len = 0 ∧ mayTransfer i = true := by
  cases exec_effect h with
  | reset h => cases h; exact absurd rfl hne
  | boot _ hu | transfer _ hu =>
    obtain ⟨hl, ht⟩ := runTransfer_outBuf hu hne
    exact ⟨hl, ht, rfl⟩
  | switchTransfer _ _ _ _ hu =>
    obtain ⟨hl, ht⟩ := runTransfer_outBuf hu (by simpa only [enterDispatch_outBuf] using hne)
    exact ⟨by simpa only [enterDispatch_len] using hl, ht, rfl⟩
  | timer | switchExit | switchQuiet => exact absurd (enterDispatch_outBuf s) hne
  | _ => exact absurd rfl hne

theorem exec_outBuf_above {i : Instr} {s t : State} (h : exec i s = .next t) {x : Nat} (hx : clampLen s.len ≤ x) :
    t.outBuf.read x = s.outBuf.read x := by
  by_cases hne : t.outBuf = s.outBuf
  · rw [hne]
  cases exec_effect h with
  | reset h => cases h; rfl
  | boot _ hu | transfer _ hu => exact runTransfer_outBuf_above hu hx
  | switchTransfer _ _ _ _ hu =>
    have habove := runTransfer_outBuf_above hu (x := x) (by simpa only [enterDispatch_len] using hx)
    simpa only [enterDispatch_outBuf] using habove
  | timer | switchExit | switchQuiet => exact absurd (enterDispatch_outBuf s) hne
  | _ => exact absurd rfl hne

/-- Settles O50: one rule for InBuffer and two for OutBuffer. -/
theorem bufferOwnership : Obligations.BufferOwnership :=
  fun _ _ _ h => ⟨exec_inBuf h, exec_outBuf h, fun _ hx => exec_outBuf_above h hx⟩

/-- Settles O22: a transfer ends with the acknowledgment, and a fault discards it. -/
theorem runTransferLeavesLengthZeroUnlessFault : Obligations.RunTransferLeavesLengthZeroUnlessFault := by
  refine ⟨fun k render s t h => runTransfer_len h, fun render s t h => ?_⟩
  obtain ⟨hp, ⟨f, rfl⟩ | hu⟩ := execRunTransfer_next h
  · exact .inr ⟨rfl, rfl⟩
  · exact .inl ⟨by simp [runTransfer_phase hu, hp], runTransfer_len hu⟩

/-! ### The surface (R93, R118, R121) -/

/-- Settles O51: a transfer without rendering leaves the surface, and no other effect but those named writes it. -/
theorem surfaceWrittenOnlyByRendering : Obligations.SurfaceWrittenOnlyByRendering := by
  intro i s t h hne
  cases exec_effect h with
  | reset => exact .inl rfl
  | report | frame => exact .inr (.inl ⟨_, rfl⟩)
  | @transfer render u _ hu =>
    cases render with
    | true => exact .inr (.inr (.inl rfl))
    | false => exact absurd (runTransfer_norender_fb hu) hne
  | switchExit | switchQuiet | switchTransfer => exact .inr (.inr (.inr rfl))
  | boot _ hu => exact absurd (runTransfer_norender_fb hu) hne
  | timer => exact absurd (enterDispatch_fb s) hne
  | _ => exact absurd rfl hne

/-! ### Between a dispatch and its ACK (R139, R178) -/

/-- Settles O37: in phase ACK the only effects are RESET, ACK, the environment's and the producer's events and the answers. -/
theorem snapshotHeldUntilAck : Obligations.SnapshotHeldUntilAck := by
  intro i s t hp h hi
  cases exec_effect h with
  | reset => exact absurd rfl hi
  | ack => exact ⟨rfl, fun hack => absurd rfl hack⟩
  | swSet | timerExpire | writeIn | writeLen | answered => exact ⟨rfl, fun _ => hp⟩
  | faulted _ hnot => exact absurd hp hnot
  | boot hp' | timer hp' | switchExit hp' | switchQuiet hp' | switchTransfer hp' | transfer hp' | apply hp' | report hp'
  | frame hp' => cases hp.symm.trans hp'

theorem runEvents_cons {i : Instr} {is : List Instr} {s t : State} (h : exec i s = .next t) :
    runEvents (i :: is) s = runEvents is t := by
  simp only [runEvents, h]

/-- Settles O38: the change is captured inside SW_WIDTH bits, where the ACK clears it. -/
theorem edgeBeforeAckIsLost : Obligations.EdgeBeforeAckIsLost := by
  intro v s hs hp hv
  have hwidth : (s.edgecap ||| (s.sw ^^^ v)).toNat < 2 ^ s.cfg.swWidth :=
    word_or_lt hs.edgecapBits (word_xor_lt hs.swBits hv)
  have hack := ackClearsEveryEdge.1 { s with edgecap := s.edgecap ||| (s.sw ^^^ v), sw := v } hp hwidth
  exact ⟨_, (runEvents_cons rfl).trans (runEvents_cons hack), rfl, rfl, rfl, rfl, by simp [enabled]⟩

end Sys2Proof.Machine
end

section
/-! The selector rows and the transform laws (41_transform.md), the colour of a pixel (42_compositor.md R115), the environment
and the producer's reads. -/

namespace Sys2Proof.Machine

/-- Settles O6: each row's byte function, read off as a natural number. -/
theorem selectorRowsAnswerTheirByte : Obligations.SelectorRowsAnswerTheirByte :=
  fun v _ _ => ⟨rfl, ⟨invertByte v, invertByte_toNat v, rfl⟩, ⟨brightenByte v, brightenByte_toNat v, rfl⟩,
    ⟨darkenByte v, darkenByte_toNat v, rfl⟩, rfl⟩

theorem invertByte_invertByte (v : Byte) : invertByte (invertByte v) = v := BitVec.not_not

/-- Settles O10: the laws hold of the natural numbers the byte functions compute. -/
theorem transformLaws : Obligations.TransformLaws := by
  refine ⟨invertByte_invertByte, fun v w h => ?_, by decide, by decide⟩
  simp only [brightenByte_toNat, darkenByte_toNat, invertByte_toNat]
  omega

/-- Packed channels read back, where each fits its bits (30_encoding.md R67). -/
theorem channels_pack {r g b : Nat} (hr : r < 8) (hg : g < 8) (hb : b < 4) :
    redOf (pack r g b) = r ∧ greenOf (pack r g b) = g ∧ blueOf (pack r g b) = b := by
  simp only [redOf, greenOf, blueOf, pack, BitVec.toNat_ofNat]
  omega

/-- Settles O12: a gray byte is at most 255, so each channel fits its bits. -/
theorem grayChannelsReadBack : Obligations.GrayChannelsReadBack := by
  intro g
  have hg := g.isLt
  exact channels_pack (by simp only [Config.redGreenFactor, Config.grayDivisor]; omega)
    (by simp only [Config.redGreenFactor, Config.grayDivisor]; omega)
    (by simp only [Config.blueFactor, Config.grayDivisor]; omega)

/-- Settles O42: the capture is bitwise, a changed bit being one in which old and new switches differ. -/
theorem environmentEventsCapture : Obligations.EnvironmentEventsCapture := by
  refine fun v s => ⟨⟨_, rfl, rfl, fun i => ?_⟩, rfl⟩
  rw [BitVec.getLsbD_or, BitVec.getLsbD_xor]

/-- Settles O27: the two outcomes of a read of OutBuffer exclude each other. -/
theorem producerReadsHandBackValues : Obligations.ProducerReadsHandBackValues := by
  refine fun off s => ⟨rfl, fun b hlen hb => ?value, fun hany => ?any⟩
  case value =>
    obtain ⟨c, -, hc, h⟩ | ⟨hany, -⟩ := execPReadOut_cases off s
    · obtain rfl := Option.some.inj (hc.symm.trans hb)
      exact h
    · simp [hlen, hb] at hany
  case any =>
    obtain ⟨c, hlen, hc, -⟩ | ⟨-, h⟩ := execPReadOut_cases off s
    · simp [hlen, hc] at hany
    · exact ⟨_, _, h, rfl⟩

/-! ### Lists of events -/

theorem runEvents_append (is js : List Instr) (s : State) :
    runEvents (is ++ js) s = (runEvents is s).bind (runEvents js) := by
  induction is generalizing s with
  | nil => rfl
  | cons i is ih =>
    rw [List.cons_append, runEvents, runEvents]
    split
    · exact ih _
    · rfl

/-- R24: one or more expiries set the one flag. -/
theorem runEvents_replicate_timerExpire (k : Nat) (s : State) :
    runEvents (List.replicate (k + 1) .timerExpire) s = some { s with timerTo := true } := by
  induction k generalizing s with
  | zero => rfl
  | succ k ih =>
    rw [List.replicate_succ, runEvents_cons rfl]
    exact ih { s with timerTo := true }

/-- Settles O40: after the expiries the flag is set, and the dispatch counts one tick for it. -/
theorem expiriesCoalesceIntoOneTick : Obligations.ExpiriesCoalesceIntoOneTick := by
  intro k s hp hg hen
  let expired : State := { s with timerTo := true }
  obtain ⟨t, ht⟩ := exec_next_of_enabled (i := .dispatchTimer) (s := expired) (by simp [enabled, expired, hp, hg, hen])
  refine ⟨t, ?_, ?_⟩
  · rw [runEvents_append, runEvents_replicate_timerExpire]
    exact runEvents_cons ht
  · obtain ⟨-, -, -, rfl⟩ := execDispatchTimer_next ht
    exact ⟨enterDispatch_timeoutCount expired, enterDispatch_timerTo expired⟩

/-- Settles O41: both are enabled, and a timer dispatch leaves what enables the switch dispatch. -/
theorem eitherPendingSourceMayGoFirst : Obligations.EitherPendingSourceMayGoFirst := by
  intro s hp hg hto hen hedge
  obtain ⟨t, ht⟩ := exec_next_of_enabled (i := .dispatchTimer) (s := s) (by simp [enabled, hp, hg, hto, hen])
  refine ⟨⟨t, ht, ?_⟩, exec_next_of_enabled (switchEnabled hp hg hedge)⟩
  obtain ⟨-, -, -, rfl⟩ := execDispatchTimer_next ht
  simpa [enabled, hp, hg] using hedge

/-! ### The pseudo-event `produce` (30_encoding.md R83) -/

/-- The bytes from offset `i` up are written one by one, and then the length. -/
theorem runEvents_produceFrom (k : Nat) (bs : List Byte) (i : Nat) (s : State) (hlen : s.len = 0)
    (hroom : i + bs.length ≤ Config.maxImageBytes) :
    ∃ m, runEvents (produceFrom i k bs) s = some { s with inBuf := m, len := BitVec.ofNat 32 k } ∧
      ∀ x, m.read x = if h : i ≤ x ∧ x - i < bs.length then some bs[x - i] else s.inBuf.read x := by
  induction bs generalizing i s with
  | nil => exact ⟨s.inBuf, runEvents_cons (execPWriteLen_of_len_eq_zero _ hlen), by simp⟩
  | cons b bs ih =>
    rw [List.length_cons] at hroom
    have hoff : (BitVec.ofNat 16 i).toNat = i := by
      simp only [Config.maxImageBytes] at hroom
      rw [BitVec.toNat_ofNat]
      omega
    obtain ⟨m, hrun, hread⟩ := ih (i + 1) { s with inBuf := s.inBuf.write i b } hlen (by omega)
    refine ⟨m, ?_, fun x => ?_⟩
    · have hwrite : exec (.pWriteIn (BitVec.ofNat 16 i) b) s = _ := execPWriteIn_of_len_eq_zero _ b hlen
      rw [hoff] at hwrite
      exact (runEvents_cons hwrite).trans hrun
    · rw [hread x, Memory.read_write]
      rcases Nat.lt_trichotomy x i with hx | rfl | hx
      · simp [show ¬ i + 1 ≤ x by omega, show ¬ i ≤ x by omega, show ¬ i = x by omega]
      · simp
      · have hshift : x - i = x - (i + 1) + 1 := by omega
        simp [show i + 1 ≤ x by omega, show i ≤ x by omega, show ¬ i = x by omega, hshift]

/-- Settles O28: `produce` is `produceFrom` offset 0, and the number of its bytes fits the length register. -/
theorem produceFillsThenRequests : Obligations.ProduceFillsThenRequests := by
  intro bs is s hlen hproduce
  unfold produce at hproduce
  split at hproduce
  · next hsize =>
    obtain rfl := Option.some.inj hproduce
    obtain ⟨m, hrun, hread⟩ := runEvents_produceFrom bs.length bs 0 s hlen (by simpa using hsize.2)
    refine ⟨_, hrun, rfl, ?_, fun x => ?_⟩
    · have hmax := hsize.2
      simp only [Config.maxImageBytes] at hmax
      simp only [BitVec.toNat_ofNat]
      omega
    · simpa using hread x
  · cases hproduce

end Sys2Proof.Machine
end

section
/-! The transform engine over a buffer (41_transform.md R100, R107) and the faults of RENDER (42_compositor.md R114). -/

namespace Sys2Proof.Machine

theorem raiseFault_eq_faulted (f : FaultRecord) (s : State) : raiseFault f s = s.faulted f := rfl

/-! ### The first bytes of a region -/

theorem definedBelow.ne_none {n : Nat} {m : Memory} (h : definedBelow n m) : ∀ i, i < n → m.read i ≠ none :=
  fun i hi => Option.ne_none_iff_exists'.2 (h i hi)

theorem readLocal_of_leastUndef {n i : Nat} {s : State} (hw : s.localBuf.wf) (h : leastUndef n i s.localBuf) :
    readLocal n s = .error (.undefRead .localBuf i) :=
  readLocal_of_undef hw h.1 h.2.1 h.2.2.ne_none

theorem readIn_of_leastUndef {n i : Nat} {s : State} (hw : s.inBuf.wf) (h : leastUndef n i s.inBuf) :
    readIn n s = .error (.undefRead .inBuf i) :=
  readIn_of_undef hw h.1 h.2.1 h.2.2.ne_none

/-- What `m` reads after the mapped first bytes of `src` are written over it. -/
theorem read_writePrefix_map {src : Memory} {n : Nat} {bs : List Byte} (hlen : bs.length = n)
    (hbs : ∀ i (hi : i < bs.length), src.read i = some bs[i]) (f : Byte → Byte) (m : Memory) (i : Nat) :
    (m.writePrefix (bs.map f)).read i = if i < n then (src.read i).map f else m.read i := by
  subst hlen
  rw [Memory.read_writePrefix]
  simp only [List.length_map]
  split
  · next hi => simp [hbs i hi]
  · rfl

/-- The first bytes of a region written back over themselves change nothing. -/
theorem Memory.writePrefix_self {m : Memory} (hm : m.wf) {bs : List Byte}
    (hbs : ∀ i (hi : i < bs.length), m.read i = some bs[i]) : m.writePrefix bs = m := by
  refine Memory.ext_of_wf (Memory.writePrefix_wf hm bs) hm fun x => ?_
  rw [Memory.read_writePrefix]
  split
  · next hx => exact (hbs x hx).symm
  · rfl

/-! ### APPLY -/

theorem execApply_of_idle {s : State} (len : BitVec 17) (k : Word32) (h : s.phase = .idle) :
    execApply len k s = commit s (transform len.toNat k s) := by
  rw [execApply, decide_eq_true h, blockEvent_true]

theorem execApply_of_read {s : State} {len : BitVec 17} {bs : List Byte} (k : Word32) (h : s.phase = .idle)
    (hread : readLocal len.toNat s = .ok bs) :
    execApply len k s = .next (writeLocal (bs.map (transformByte (selectTransform k))) s) := by
  rw [execApply_of_idle len k h, transform_of_read hread, commit_ok]

/-- Settles O7: the bytes read, and their images are written over them. -/
theorem applyMapsBytesInPlace : Obligations.ApplyMapsBytesInPlace := by
  intro len k s hp hw hdef
  obtain ⟨bs, hread⟩ := readLocal_of_defined hw hdef.ne_none
  obtain ⟨hlen, hbs⟩ := readLocal_ok hread
  exact ⟨_, execApply_of_read k hp hread, rfl, read_writePrefix_map hlen hbs _ s.localBuf⟩

/-- Settles O8: the reader names the least undef offset, and the event commits nothing but its fault. -/
theorem applyFaultsOnUndef : Obligations.ApplyFaultsOnUndef := by
  intro len k i s hp hw hundef
  calc execApply len k s
      = commit s (transform len.toNat k s) := execApply_of_idle len k hp
    _ = commit s (.error (.undefRead .localBuf i)) := by rw [transform, readLocal_of_leastUndef hw hundef]
    _ = .next (s.faulted (.undefRead .localBuf i)) := rfl

/-- Settles O9: the second APPLY reads what the first wrote, and inverting its bytes gives the first ones back. -/
theorem applyInvertTwiceRestores : Obligations.ApplyInvertTwiceRestores := by
  intro len s hp hw hdef
  obtain ⟨bs, hread⟩ := readLocal_of_defined hw hdef.ne_none
  obtain ⟨hlen, hbs⟩ := readLocal_ok hread
  have hread' : readLocal len.toNat (writeLocal (bs.map invertByte) s) = .ok (bs.map invertByte) :=
    readLocal_writeLocal (by rw [List.length_map, hlen]) s
  have hback : (bs.map invertByte).map invertByte = bs := by
    simp [Function.comp_def, invertByte_invertByte]
  refine ⟨writeLocal (bs.map invertByte) s, execApply_of_read 1 hp hread, ?_⟩
  calc execApply len 1 (writeLocal (bs.map invertByte) s)
      = .next (writeLocal ((bs.map invertByte).map invertByte) (writeLocal (bs.map invertByte) s)) :=
        execApply_of_read 1 hp hread'
    _ = .next (writeLocal bs s) := by rw [hback, writeLocal_writeLocal (List.length_map _)]
    _ = .next s := by rw [writeLocal, Memory.writePrefix_self hw hbs]

/-! ### RENDER -/

theorem compose_of_sq_too_large {n side : Nat} (s : State) (hsq : side * side = n) (hlarge : 240 < side) :
    compose n s = .error (.geometry side) := by
  subst hsq
  simp [compose, Config.surfH, hlarge]

theorem compose_of_sq_of_undef {n side i : Nat} {s : State} (hsq : side * side = n) (hfit : side ≤ 240)
    (hw : s.localBuf.wf) (hundef : leastUndef n i s.localBuf) : compose n s = .error (.undefRead .localBuf i) := by
  subst hsq
  simp [compose, Config.surfH, Nat.not_lt.2 hfit, readLocal_of_leastUndef hw hundef]

/-- Settles O15: the compositor's two faults, neither of which commits anything else. -/
theorem renderFaultsCommitNothing : Obligations.RenderFaultsCommitNothing := by
  refine ⟨fun len side s hp hsq hlarge => ?_, fun len side i s hp hw hsq hfit hundef => ?_⟩
  · calc execRender len s
        = commit s (compose len.toNat s) := execRender_of_idle len hp
      _ = .next (s.faulted (.geometry side)) := by rw [compose_of_sq_too_large s hsq hlarge]; rfl
  · calc execRender len s
        = commit s (compose len.toNat s) := execRender_of_idle len hp
      _ = .next (s.faulted (.undefRead .localBuf i)) := by rw [compose_of_sq_of_undef hsq hfit hw hundef]; rfl

end Sys2Proof.Machine
end

section
/-! The transfer (40_handshake.md R85): what the procedure leaves in each of its cases, and the events that run it. -/

namespace Sys2Proof.Machine

/-! ### The bytes -/

/-- Steps 3 to 5 move the transformed bytes. -/
theorem bytesMoved_transferred (k : Word32) {n : Nat} {s : State} {bs : List Byte} (hread : readIn n s = .ok bs) :
    bytesMoved k n s (transferred k bs s) := by
  obtain ⟨hlen, hbs⟩ := readIn_ok hread
  exact fun i => ⟨read_writePrefix_map hlen hbs _ s.outBuf i, read_writePrefix_map hlen hbs _ s.localBuf i⟩

theorem clampLen_eq (n : Word32) : clampLen n = min n.toNat 65536 := rfl

section
variable {s : State} (k : Word32) (hl : s.len ≠ 0) (hw : s.inBuf.wf)
include hl hw

section
variable (hdef : definedBelow (min s.len.toNat 65536) s.inBuf)
include hdef

/-- A transfer without rendering. -/
theorem runTransfer_moves : ∃ t, runTransfer k false s = .ok t ∧
    t = { s with len := 0, outBuf := t.outBuf, localBuf := t.localBuf } ∧ bytesMoved k (min s.len.toNat 65536) s t := by
  obtain ⟨bs, hread⟩ := readIn_of_defined hw hdef.ne_none
  exact ⟨_, runTransfer_of_read k false hl hread, rfl, bytesMoved_transferred k hread⟩

/-- A transfer with rendering of a square that fits: the compositor reads the bytes the transfer wrote. -/
theorem runTransfer_renders {side : Nat} (hsq : side * side = min s.len.toNat 65536) (hfit : side ≤ 240) :
    ∃ t, runTransfer k true s = .ok t ∧
      t = { s with len := 0, outBuf := t.outBuf, localBuf := t.localBuf, fb := t.fb } ∧
      bytesMoved k (min s.len.toNat 65536) s t ∧ frameShown side t.localBuf t.fb := by
  obtain ⟨bs, hread⟩ := readIn_of_defined hw hdef.ne_none
  have hlocal := readLocal_transferred (s := s) k (readIn_ok hread).1
  obtain ⟨hlen, hbs⟩ := readLocal_ok hlocal
  have hrun := runTransfer_of_read k true hl hread
  rw [if_pos rfl, clampLen_eq, compose_of_sq_of_read hsq hfit hlocal] at hrun
  exact ⟨_, hrun, rfl, bytesMoved_transferred k hread, frameShown_writePrefix_frameBytes (hlen.trans hsq.symm) hbs s.fb⟩

/-- A transfer with rendering of a length that is no square. -/
theorem runTransfer_reports (hns : ∀ i : Nat, i * i ≠ min s.len.toNat 65536) :
    ∃ t, runTransfer k true s = .ok t ∧
      t = { s with len := 0, outBuf := t.outBuf, localBuf := t.localBuf, trace := s.trace ++ [.sizingError] } ∧
      bytesMoved k (min s.len.toNat 65536) s t := by
  obtain ⟨bs, hread⟩ := readIn_of_defined hw hdef.ne_none
  have hrun := runTransfer_of_read k true hl hread
  rw [if_pos rfl, clampLen_eq, compose_of_isqrtExact_none _ ((isqrtExact_eq_none_iff _).2 hns)] at hrun
  exact ⟨_, hrun, rfl, bytesMoved_transferred k hread⟩

/-- A transfer with rendering of a square above the surface. -/
theorem runTransfer_geometry {side : Nat} (hsq : side * side = min s.len.toNat 65536) (hlarge : 240 < side) :
    runTransfer k true s = .error (.geometry side) := by
  obtain ⟨bs, hread⟩ := readIn_of_defined hw hdef.ne_none
  rw [runTransfer_of_read k true hl hread, if_pos rfl, clampLen_eq, compose_of_sq_too_large _ hsq hlarge, thenDo_error]

end

theorem runTransfer_undef (render : Bool) {i : Nat} (hundef : leastUndef (min s.len.toNat 65536) i s.inBuf) :
    runTransfer k render s = .error (.undefRead .inBuf i) :=
  runTransfer_readError k render hl (readIn_of_leastUndef hw hundef)

end

/-! ### RUN_TRANSFER -/

theorem execRunTransfer_of_idle {s : State} (render : Bool) (h : s.phase = .idle) :
    execRunTransfer render s = commit s (runTransfer (switchSel s.sw) render s) := by
  rw [execRunTransfer, decide_eq_true h, blockEvent_true]

theorem execRunTransfer_of_ok {s t : State} {render : Bool} (h : s.phase = .idle)
    (hrun : runTransfer (switchSel s.sw) render s = .ok t) : execRunTransfer render s = .next t := by
  rw [execRunTransfer_of_idle render h, hrun, commit_ok]

theorem execRunTransfer_of_error {s : State} {render : Bool} {f : FaultRecord} (h : s.phase = .idle)
    (hrun : runTransfer (switchSel s.sw) render s = .error f) : execRunTransfer render s = .next (s.faulted f) := by
  rw [execRunTransfer_of_idle render h, hrun, commit_error, raiseFault_eq_faulted]

/-- Settles O17: step 1 of R85. -/
theorem runTransferAtZeroIsNoOp : Obligations.RunTransferAtZeroIsNoOp :=
  fun _ _ hp hl => execRunTransfer_of_ok hp (runTransfer_idle _ _ hl)

/-- Settles O18: the event commits the transfer under the live switches' selector. -/
theorem runTransferMovesBytesWithoutRender : Obligations.RunTransferMovesBytesWithoutRender := by
  intro s hp hl hw hdef
  obtain ⟨t, hrun, hframe, hmoved⟩ := runTransfer_moves (switchSel s.sw) hl hw hdef
  exact ⟨t, execRunTransfer_of_ok hp hrun, hframe, hmoved⟩

/-- Settles O19: the same with the frame of a square that fits. -/
theorem runTransferRendersSquare : Obligations.RunTransferRendersSquare := by
  intro side s hp hl hw hdef hsq hfit
  obtain ⟨t, hrun, hframe, hmoved, hshown⟩ := runTransfer_renders (switchSel s.sw) hl hw hdef hsq hfit
  exact ⟨t, execRunTransfer_of_ok hp hrun, hframe, hmoved, hshown⟩

/-- Settles O20: the same with the report of a length that is no square. -/
theorem runTransferReportsNonSquare : Obligations.RunTransferReportsNonSquare := by
  intro s hp hl hw hdef hns
  obtain ⟨t, hrun, hframe, hmoved⟩ := runTransfer_reports (switchSel s.sw) hl hw hdef hns
  exact ⟨t, execRunTransfer_of_ok hp hrun, hframe, hmoved⟩

/-- Settles O21: the transfer's two faults, neither of which commits anything else. -/
theorem runTransferFaultsCommitNothing : Obligations.RunTransferFaultsCommitNothing :=
  ⟨fun render _ s hp hl hw hundef => execRunTransfer_of_error hp (runTransfer_undef (switchSel s.sw) hl hw render hundef),
    fun _ s hp hl hw hdef hsq hlarge =>
      execRunTransfer_of_error hp (runTransfer_geometry (switchSel s.sw) hl hw hdef hsq hlarge)⟩

/-! ### BOOT -/

/-- Settles O23: with no length pending the transfer of R90 does nothing. -/
theorem bootWithoutRequest : Obligations.BootWithoutRequest := by
  intro s hp hl
  refine (execBoot_eq hp).trans ?_
  rw [runTransfer_idle _ _ (show (takeSnapshot s).len = 0 from hl), thenDo_ok]
  rfl

/-- Settles O24: the transfer of R90 on the state with the snapshot, and then the end of BOOT. -/
theorem bootServesThePendingRequest : Obligations.BootServesThePendingRequest := by
  intro s hp hl hw hdef
  obtain ⟨u, hrun, hframe, hmoved⟩ := runTransfer_moves (s := takeSnapshot s) (switchSel s.sw) hl hw hdef
  refine ⟨returnToIdle { u with gie := true }, ?_, ?_, hmoved⟩
  · refine (execBoot_eq hp).trans ?_
    rw [hrun, thenDo_ok]
    rfl
  · rw [hframe]
    rfl

/-- Settles O25: the fault of the transfer ends BOOT before it commits its snapshot. -/
theorem bootFaultsOnUndef : Obligations.BootFaultsOnUndef := by
  intro i s hp hl hw hundef
  refine (execBoot_eq hp).trans ?_
  rw [runTransfer_undef (s := takeSnapshot s) (switchSel s.sw) hl hw false hundef, thenDo_error]
  rfl

end Sys2Proof.Machine
end

section
/-! The service part of a switch dispatch past the exit test (43_dispatcher.md R123, R127, R128, R135). -/

namespace Sys2Proof.Machine

/-- Where step 3b begins its transfer: the snapshot taken, the tick serviced and the confirm bit retained. -/
def confirmRetained (s : State) : State := { enterDispatch s with prevConfirm := confirmBit s.sw }

theorem confirmRetained_eq (s : State) :
    confirmRetained s = { s.ticked with snap := s.sw, prevConfirm := confirmBit s.sw } := by
  rw [confirmRetained, enterDispatch_ticked]

@[simp] theorem confirmRetained_len (s : State) : (confirmRetained s).len = s.len := enterDispatch_len s
@[simp] theorem confirmRetained_inBuf (s : State) : (confirmRetained s).inBuf = s.inBuf := enterDispatch_inBuf s

theorem bytesMoved_confirmRetained {k : Word32} {n : Nat} {s t : State} :
    bytesMoved k n (confirmRetained s) t ↔ bytesMoved k n s t := by
  simp only [bytesMoved, confirmRetained, enterDispatch_inBuf, enterDispatch_outBuf, enterDispatch_localBuf]

section
variable {s : State} (hp : s.phase = .idle) (hg : s.gie = true) (hpending : s.edgecap &&& s.cfg.swIrqMask ≠ 0)
  (hexit : exitBit s.sw = false)
include hp hg hpending hexit

theorem execDispatchSwitch_of_no_exit : execDispatchSwitch s = commit s (serviceEdge (enterDispatch s)) := by
  simp only [execDispatchSwitch, switchEnabled hp hg hpending, blockEvent_true, enterDispatch_snap, hexit, Bool.false_eq_true,
    if_false]

theorem execDispatchSwitch_of_quiet (hquiet : s.len = 0 ∨ confirmBit s.sw = s.prevConfirm) :
    execDispatchSwitch s = .next { s.ticked with snap := s.sw, prevConfirm := confirmBit s.sw, phase := .ack } := by
  have hservice := serviceEdge_quiet (enterDispatch_snap s) (by rwa [enterDispatch_len, enterDispatch_prevConfirm])
  rw [execDispatchSwitch_of_no_exit hp hg hpending hexit, hservice, commit_ok, enterDispatch_ticked]

variable (hl : s.len ≠ 0) (hedge : confirmBit s.sw ≠ s.prevConfirm)
include hl hedge

theorem execDispatchSwitch_of_edge : execDispatchSwitch s =
    commit s (thenDo (runTransfer (switchSel s.sw) true (confirmRetained s)) awaitAck) := by
  rw [execDispatchSwitch_of_no_exit hp hg hpending hexit, serviceEdge_edge (enterDispatch_snap s)
    (by rwa [enterDispatch_len]) (by rwa [enterDispatch_prevConfirm])]
  rfl

theorem execDispatchSwitch_of_transfer_ok {u : State}
    (hrun : runTransfer (switchSel s.sw) true (confirmRetained s) = .ok u) :
    execDispatchSwitch s = .next { u with phase := .ack } := by
  rw [execDispatchSwitch_of_edge hp hg hpending hexit hl hedge, hrun, thenDo_ok, awaitAck, commit_ok]

theorem execDispatchSwitch_of_transfer_error {f : FaultRecord}
    (hrun : runTransfer (switchSel s.sw) true (confirmRetained s) = .error f) :
    execDispatchSwitch s = .next (s.faulted f) := by
  rw [execDispatchSwitch_of_edge hp hg hpending hexit hl hedge, hrun, thenDo_error, commit_error, raiseFault_eq_faulted]

end

/-- Settles O33: step 3b without a transfer, on the ticked state. -/
theorem switchDispatchWithoutTransfer : Obligations.SwitchDispatchWithoutTransfer :=
  fun _ hp hg hpending hexit hquiet => execDispatchSwitch_of_quiet hp hg hpending hexit hquiet

/-- Settles O34: step 3b's transfer begins from `confirmRetained`, whose length and InBuffer are those of `s`. -/
theorem switchDispatchEdgeTransfers : Obligations.SwitchDispatchEdgeTransfers := by
  intro s hp hg hpending hexit hl hedge hw hdef
  rw [← confirmRetained_len] at hdef ⊢
  have hl' : (confirmRetained s).len ≠ 0 := by rwa [confirmRetained_len]
  rw [← confirmRetained_inBuf] at hw hdef
  refine ⟨fun side hsq hfit => ?square, fun hns => ?nonSquare⟩
  case square =>
    obtain ⟨u, hrun, hframe, hmoved, hshown⟩ := runTransfer_renders (switchSel s.sw) hl' hw hdef hsq hfit
    refine ⟨_, execDispatchSwitch_of_transfer_ok hp hg hpending hexit hl hedge hrun, ?_,
      bytesMoved_confirmRetained.1 hmoved, hshown⟩
    rw [hframe, confirmRetained_eq]
    rfl
  case nonSquare =>
    obtain ⟨u, hrun, hframe, hmoved⟩ := runTransfer_reports (switchSel s.sw) hl' hw hdef hns
    refine ⟨_, execDispatchSwitch_of_transfer_ok hp hg hpending hexit hl hedge hrun, ?_,
      bytesMoved_confirmRetained.1 hmoved⟩
    rw [hframe, confirmRetained_eq]
    rfl

/-- Settles O35: the transfer's fault discards the snapshot, the tick and the retained bit with the rest. -/
theorem switchDispatchFaultCommitsNothing : Obligations.SwitchDispatchFaultCommitsNothing := by
  intro s hp hg hpending hexit hl hedge hw
  rw [← confirmRetained_len]
  have hl' : (confirmRetained s).len ≠ 0 := by rwa [confirmRetained_len]
  rw [← confirmRetained_inBuf] at hw ⊢
  exact ⟨fun i hundef => execDispatchSwitch_of_transfer_error hp hg hpending hexit hl hedge
      (runTransfer_undef (switchSel s.sw) hl' hw true hundef),
    fun side hdef hsq hlarge => execDispatchSwitch_of_transfer_error hp hg hpending hexit hl hedge
      (runTransfer_geometry (switchSel s.sw) hl' hw hdef hsq hlarge)⟩

end Sys2Proof.Machine
end

section
/-! The number of foreground pixels (42_compositor.md R119). -/

namespace Sys2Proof.Machine

/-- Positions in row-major order whose column passes `a` and whose row passes `b`. -/
theorem countP_range_mul {w : Nat} (a b : Nat → Bool) (h : Nat) :
    (List.range (h * w)).countP (fun q => a (q % w) && b (q / w)) = (List.range h).countP b * (List.range w).countP a := by
  induction h with
  | zero => simp
  | succ h ih =>
    have hrow : (List.range w).countP ((fun q => a (q % w) && b (q / w)) ∘ (h * w + ·)) =
        if b h then (List.range w).countP a else 0 := by
      have hcell : ∀ x ∈ List.range w, ((fun q => a (q % w) && b (q / w)) ∘ (h * w + ·)) x = (a x && b h) := by
        intro x hx
        have hx := List.mem_range.1 hx
        rw [Function.comp_apply, Nat.add_comm, Nat.add_mul_mod_self_right, Nat.add_mul_div_right _ _ (by omega),
          Nat.mod_eq_of_lt hx, Nat.div_eq_of_lt hx, Nat.zero_add]
      rw [List.countP_congr fun x hx => by rw [hcell x hx]]
      cases b h <;> simp
    rw [Nat.succ_mul, List.range_add, List.countP_append, List.countP_map, ih, hrow, List.range_succ, List.countP_append,
      List.countP_singleton, Nat.add_mul]
    split <;> simp

/-- `x` is one of the `k` numbers from `lo` up. -/
def inSpan (lo k x : Nat) : Bool := decide (lo ≤ x) && decide (x < lo + k)

theorem countP_range_inSpan (lo k n : Nat) : (List.range n).countP (inSpan lo k) = min n (lo + k) - min n lo := by
  induction n with
  | zero => simp
  | succ n ih =>
    rw [List.range_succ, List.countP_append, List.countP_singleton, ih]
    simp only [inSpan, Bool.and_eq_true, decide_eq_true_eq]
    split <;> omega

theorem insideImage_eq (side x y : Nat) :
    insideImage side x y = (inSpan (centerX side) side x && inSpan (centerY side) side y) := by
  simp only [insideImage, inSpan, Bool.and_assoc]

/-- Settles O16: the inside test is a test of the column and one of the row, each true of `side` numbers. -/
theorem frameHasSideSquaredForegroundPixels : Obligations.FrameHasSideSquaredForegroundPixels := by
  intro side hside
  have hcols : (List.range 320).countP (inSpan (centerX side) side) = side := by
    rw [countP_range_inSpan, centerX, Config.surfW]
    omega
  have hrows : (List.range 240).countP (inSpan (centerY side) side) = side := by
    rw [countP_range_inSpan, centerY, Config.surfH]
    omega
  simp only [insideImage_eq]
  exact (countP_range_mul _ _ 240).trans (congrArg₂ (· * ·) hrows hcols)

end Sys2Proof.Machine
end

section
/-! Rules about runs: what a list of events keeps, the one transfer of a request (40_handshake.md R98), and the held confirm
bit (43_dispatcher.md R135). -/

namespace Sys2Proof.Machine

theorem runEvents_cons_eq_some {i : Instr} {is : List Instr} {s t : State} (h : runEvents (i :: is) s = some t) :
    ∃ u, exec i s = .next u ∧ runEvents is u = some t := by
  rw [runEvents] at h
  split at h
  · next u hu => exact ⟨u, hu, h⟩
  · cases h

/-! ### No length pending -/

/-- With no length pending only the producer's write of a length ends that, and OutBuffer stays. -/
theorem exec_of_len_eq_zero {i : Instr} {s t : State} (h : exec i s = .next t) (hl : s.len = 0)
    (hi : ∀ v, i ≠ .pWriteLen v) : t.len = 0 ∧ t.outBuf = s.outBuf := by
  refine ⟨?_, ?_⟩
  · by_contra hne
    rcases lengthRegisterOwnership i s t h (by rwa [hl]) with ⟨-, hwrite⟩ | ⟨hpending, -, -⟩
    · exact hi _ hwrite
    · exact hpending hl
  · by_contra hne
    exact (exec_outBuf h hne).1 hl

theorem runEvents_of_len_eq_zero {is : List Instr} {s t : State} (hrun : runEvents is s = some t) (hl : s.len = 0)
    (his : ∀ i ∈ is, ∀ v, i ≠ .pWriteLen v) : t.len = 0 ∧ t.outBuf = s.outBuf := by
  induction is generalizing s with
  | nil => cases hrun; exact ⟨hl, rfl⟩
  | cons i is ih =>
    obtain ⟨u, hu, hrest⟩ := runEvents_cons_eq_some hrun
    obtain ⟨hlen, hout⟩ := exec_of_len_eq_zero hu hl (his i List.mem_cons_self)
    obtain ⟨hlen', hout'⟩ := ih hrest hlen fun j hj => his j (List.mem_cons_of_mem i hj)
    exact ⟨hlen', hout'.trans hout⟩

/-! ### The event that ends a request -/

/-- A transfer of a pending length read bytes that all hold values and moved their transforms, rendering or not. -/
theorem runTransfer_moved {k : Word32} {render : Bool} {s t : State} (h : runTransfer k render s = .ok t) (hl : s.len ≠ 0) :
    definedBelow (clampLen s.len) s.inBuf ∧ bytesMoved k (clampLen s.len) s t := by
  rcases runTransfer_ok h with ⟨hl', -⟩ | ⟨bs, -, hread, hcases⟩
  · exact absurd hl' hl
  obtain ⟨hlen, hbs⟩ := readIn_ok hread
  have hmoved := bytesMoved_transferred k hread
  refine ⟨fun i hi => ⟨_, hbs i (hlen ▸ hi)⟩, ?_⟩
  rcases hcases with ⟨-, rfl⟩ | ⟨-, -, rfl⟩ | ⟨-, side, -, -, rfl⟩ <;> exact hmoved

/-- The event that ends a pending length moved its bytes, under the selector of the switches. -/
theorem exec_moved {i : Instr} {s t : State} (h : exec i s = .next t) (hl : s.len ≠ 0) (ht : t.len = 0) :
    definedBelow (clampLen s.len) s.inBuf ∧ bytesMoved (switchSel s.sw) (clampLen s.len) s t := by
  cases exec_effect h with
  | boot _ hu | transfer _ hu =>
    have hmoved := runTransfer_moved hu hl
    exact hmoved
  | switchTransfer _ _ _ _ hu =>
    have hmoved := runTransfer_moved (s := confirmRetained s) hu (by rwa [confirmRetained_len])
    rwa [confirmRetained_len, confirmRetained_inBuf, bytesMoved_confirmRetained] at hmoved
  | writeLen _ hl' => exact absurd hl' hl
  | timer | switchExit | switchQuiet => exact absurd ((enterDispatch_len s).symm.trans ht) hl
  | reset h => cases h; exact absurd ht hl
  | _ => exact absurd ht hl

/-- R98: the run splits at the one event that ends the request of length `k`. -/
def RequestServedOnce (k : Word32) (is : List Instr) (s t : State) : Prop :=
  ∃ a e b u v, is = a ++ e :: b ∧ runEvents a s = some u ∧ exec e u = .next v ∧ runEvents b v = some t ∧
    mayTransfer e = true ∧ u.len = k ∧ v.len = 0 ∧ u.outBuf = s.outBuf ∧ t.outBuf = v.outBuf ∧
    definedBelow (min k.toNat 65536) u.inBuf ∧ bytesMoved (u.sw >>> 2) (min k.toNat 65536) u v ∧
    (∀ p w, p <+: a → runEvents p s = some w → w.len = k) ∧ (∀ p w, p <+: b → runEvents p v = some w → w.len = 0)

section
variable {k : Word32} {i : Instr} {is : List Instr} {s u t : State} (hk : k ≠ 0) (hsk : s.len = k)
  (hi : exec i s = .next u) (hrest : runEvents is u = some t)
include hk hsk hi hrest

/-- The first event ends the request. -/
theorem requestServedOnce_here (hu : u.len = 0) (his : ∀ j ∈ is, ∀ v, j ≠ .pWriteLen v) :
    RequestServedOnce k (i :: is) s t := by
  have hl : s.len ≠ 0 := fun h => hk (hsk.symm.trans h)
  have htransfer : mayTransfer i = true := by
    rcases lengthRegisterOwnership i s u hi (fun h => hl (h.symm.trans hu)) with ⟨h0, -⟩ | ⟨-, -, h⟩
    · exact absurd h0 hl
    · exact h
  obtain ⟨hdef, hmoved⟩ := exec_moved hi hl hu
  rw [hsk] at hdef hmoved
  refine ⟨[], i, is, s, u, rfl, rfl, hi, hrest, htransfer, hsk, hu, rfl, (runEvents_of_len_eq_zero hrest hu his).2, hdef,
    hmoved, fun p w hp hw => ?before, fun p w hp hw => ?after⟩
  case before =>
    obtain rfl := List.prefix_nil.1 hp
    cases hw
    exact hsk
  case after => exact (runEvents_of_len_eq_zero hw hu fun j hj => his j (hp.subset hj)).1

/-- The first event leaves the request pending, and a later one ends it. -/
theorem requestServedOnce_later (hu : u.len = k) (h : RequestServedOnce k is u t) : RequestServedOnce k (i :: is) s t := by
  have hout : u.outBuf = s.outBuf := by
    by_contra hne
    exact hk (hu.symm.trans (exec_outBuf hi hne).2.1)
  obtain ⟨a, e, b, x, y, rfl, ha, he, hb, htransfer, hx, hy, hxout, htout, hdef, hmoved, hbefore, hafter⟩ := h
  refine ⟨i :: a, e, b, x, y, rfl, (runEvents_cons hi).trans ha, he, hb, htransfer, hx, hy, hxout.trans hout, htout, hdef,
    hmoved, fun p w hp hw => ?_, hafter⟩
  rcases List.prefix_cons_iff.1 hp with rfl | ⟨q, rfl, hq⟩
  · cases hw
    exact hsk
  · exact hbefore q w hq ((runEvents_cons hi).symm.trans hw)

end

theorem requestServedOnce {k : Word32} (hk : k ≠ 0) {is : List Instr} {s t : State} (hsk : s.len = k)
    (hrun : runEvents is s = some t) (his : ∀ i ∈ is, ∀ v, i ≠ .pWriteLen v) (ht : t.len = 0) :
    RequestServedOnce k is s t := by
  induction is generalizing s with
  | nil =>
    cases hrun
    exact absurd (hsk.symm.trans ht) hk
  | cons i is ih =>
    obtain ⟨u, hi, hrest⟩ := runEvents_cons_eq_some hrun
    have his' : ∀ j ∈ is, ∀ v, j ≠ .pWriteLen v := fun j hj => his j (List.mem_cons_of_mem i hj)
    by_cases hu : u.len = s.len
    · have huk := hu.trans hsk
      exact requestServedOnce_later hk hsk hi hrest huk (ih huk hrest his')
    · rcases lengthRegisterOwnership i s u hi hu with ⟨-, hwrite⟩ | ⟨-, hu0, -⟩
      · exact absurd hwrite (his i List.mem_cons_self _)
      · exact requestServedOnce_here hk hsk hi hrest hu0 his'

/-- Settles O29: by induction on the events, of which the first that changes the length register ends the request. -/
theorem completionSeenByProducer : Obligations.CompletionSeenByProducer := by
  intro k is s t0 t hk hwrite hrun his ht
  obtain ⟨-, rfl⟩ := execPWriteLen_next hwrite
  exact requestServedOnce hk rfl hrun his ht

/-! ### The held confirm bit -/

/-- Without RESET, and with every switch dispatch bailing out on the exit bit, a run keeps the retained confirm bit. -/
theorem runEvents_prevConfirm {is : List Instr} {s t : State} (hrun : runEvents is s = some t) (hreset : .reset ∉ is)
    (hexit : ∀ a b u, is = a ++ .dispatchSwitch :: b → runEvents a s = some u → exitBit u.sw = true) :
    t.prevConfirm = s.prevConfirm := by
  induction is generalizing s with
  | nil => cases hrun; rfl
  | cons i is ih =>
    obtain ⟨u, hi, hrest⟩ := runEvents_cons_eq_some hrun
    have hkept : u.prevConfirm = s.prevConfirm := by
      by_contra hne
      rcases retainedConfirmWrittenOnlyByService.1 i s u hi hne with ⟨rfl, -⟩ | ⟨rfl, hpassed, -⟩
      · exact hreset List.mem_cons_self
      · exact absurd (hpassed.symm.trans (hexit [] is s rfl rfl)) (by decide)
    refine (ih hrest (fun h => hreset (List.mem_cons_of_mem i h)) fun a b w hab hw => ?_).trans hkept
    exact hexit (i :: a) b w (congrArg (i :: ·) hab) ((runEvents_cons hi).trans hw)

/-- A switch dispatch that finds the confirm bit as retained starts no transfer. -/
theorem execDispatchSwitch_of_held {s t : State} (h : execDispatchSwitch s = .next t) (hheld : confirmBit s.sw = s.prevConfirm) :
    t.len = s.len ∧ t.outBuf = s.outBuf ∧ t.localBuf = s.localBuf ∧ t.fb = s.fb ∧ t.phase ≠ .fault := by
  obtain ⟨hp, -, -, ⟨-, -, hc, -⟩ | ⟨-, rfl⟩ | ⟨-, -, rfl⟩ | ⟨-, -, hc, -⟩⟩ := execDispatchSwitch_next h
  · exact absurd hheld hc
  · simp [hp]
  · simp
  · exact absurd hheld hc

/-- Settles O39: the first dispatch retains its confirm bit, the run between keeps it, the second finds it. -/
theorem heldConfirmTransfersOnce : Obligations.HeldConfirmTransfersOnce := by
  intro is s1 t1 s2 t2 hfirst hack hrun hreset hexit hsecond hsame
  have hretained : t1.prevConfirm = confirmBit s1.sw := (execDispatchSwitch_prevConfirm hfirst hack).2
  have hkept : s2.prevConfirm = t1.prevConfirm := runEvents_prevConfirm hrun hreset hexit
  exact execDispatchSwitch_of_held hsecond (hsame.trans (hkept.trans hretained).symm)

end Sys2Proof.Machine
end

section
/-! The bytes of LocalImageBuffer an event does not reach (10_state.md R44, 42_compositor.md R120): every operation acts alike
on a state and on the same state with another LocalImageBuffer. -/

namespace Sys2Proof.Machine

/-- The state with another LocalImageBuffer. -/
def State.withLocal (m : Memory) (s : State) : State := { s with localBuf := m }

@[simp] theorem withLocal_len (m : Memory) (s : State) : (s.withLocal m).len = s.len := rfl
@[simp] theorem withLocal_snap (m : Memory) (s : State) : (s.withLocal m).snap = s.snap := rfl
@[simp] theorem withLocal_outBuf (m : Memory) (s : State) : (s.withLocal m).outBuf = s.outBuf := rfl

/-- From `s` with the LocalImageBuffer `m`, the procedure `f` ends as from `s`, but for LocalImageBuffer. -/
def LocalBlind (f : State → Except FaultRecord State) (m : Memory) (s : State) : Prop :=
  ∃ m', f (s.withLocal m) = (f s).map (State.withLocal m')

/-! ### Procedures -/

/-- Canonical regions that agree below `n` read alike below `n`, faults included. -/
theorem readPrefix_congr {m m' : Memory} {n : Nat} (hm : m.wf) (hm' : m'.wf) (h : ∀ x, x < n → m'.read x = m.read x) :
    m'.readPrefix n = m.readPrefix n := by
  cases hr : m.readPrefix n with
  | error i =>
    obtain ⟨hi, hu, hd⟩ := Memory.readPrefix_error hm hr
    refine Memory.readPrefix_of_undef hm' hi ((h i hi).trans hu) fun j hj => ?_
    rw [h j (by omega)]
    exact Option.ne_none_iff_exists'.2 (hd j hj)
  | ok bs =>
    obtain ⟨hlen, hbs⟩ := Memory.readPrefix_ok hr
    obtain ⟨cs, hr'⟩ := Memory.readPrefix_of_defined hm' (n := n) fun i hi => by
      simp [h i hi, hbs i (hlen ▸ hi)]
    obtain ⟨hlen', hcs⟩ := Memory.readPrefix_ok hr'
    rw [hr']
    refine congrArg _ (List.ext_getElem (hlen'.trans hlen.symm) fun i hi hi' => Option.some.inj ?_)
    rw [← hcs i hi, ← hbs i hi', h i (hlen' ▸ hi)]

section
variable {m : Memory} {s : State}

theorem readLocal_withLocal {n : Nat} (hm : s.localBuf.wf) (hm' : m.wf) (h : ∀ x, x < n → m.read x = s.localBuf.read x) :
    readLocal n (s.withLocal m) = readLocal n s := by
  simp only [readLocal, State.withLocal, readPrefix_congr hm hm' h]

theorem localBlind_thenDo {f g : State → Except FaultRecord State} (hf : LocalBlind f m s)
    (hg : ∀ m' u, LocalBlind g m' u) : LocalBlind (fun u => thenDo (f u) g) m s := by
  obtain ⟨m', hf⟩ := hf
  cases hs : f s with
  | error e =>
    refine ⟨m', ?_⟩
    simp only [hf, hs]
    rfl
  | ok u =>
    obtain ⟨m'', hg⟩ := hg m' u
    refine ⟨m'', ?_⟩
    simp only [hf, hs, thenDo_ok]
    exact hg

theorem localBlind_transform {n : Nat} (k : Word32) (h : readLocal n (s.withLocal m) = readLocal n s) :
    LocalBlind (transform n k) m s := by
  rcases transform_cases n k s with ⟨bs, hr, ht⟩ | ⟨f, hr, ht⟩
  · refine ⟨m.writePrefix (bs.map (transformByte (selectTransform k))), ?_⟩
    rw [ht, transform_of_read (h.trans hr)]
    rfl
  · refine ⟨m, ?_⟩
    rw [ht, transform, h, hr]
    rfl

theorem compose_withLocal {n : Nat} (h : readLocal n (s.withLocal m) = readLocal n s) :
    compose n (s.withLocal m) = (compose n s).map (State.withLocal m) := by
  unfold compose
  cases hroot : isqrtExact n with
  | none => rfl
  | some side =>
    obtain rfl := sq_of_isqrtExact hroot
    simp only [h]
    split
    · rfl
    · cases readLocal (side * side) s <;> rfl

/-- A transfer reads of LocalImageBuffer only what it wrote there itself (60_exceptions.md R148). -/
theorem localBlind_runTransfer (k : Word32) (render : Bool) (m : Memory) (s : State) :
    LocalBlind (runTransfer k render) m s := by
  by_cases hl : s.len = 0
  · refine ⟨m, ?_⟩
    rw [runTransfer_idle k render hl, runTransfer_idle k render (s := s.withLocal m) hl]
    rfl
  cases hr : readIn (clampLen s.len) s with
  | error f =>
    refine ⟨m, ?_⟩
    rw [runTransfer_readError k render hl hr, runTransfer_readError k render (s := s.withLocal m) hl hr]
    rfl
  | ok bs =>
    have hlen := (readIn_ok hr).1
    let m' := m.writePrefix (bs.map (transformByte (selectTransform k)))
    have htransferred : transferred k bs (s.withLocal m) = (transferred k bs s).withLocal m' := rfl
    have hcompose : compose (clampLen s.len) ((transferred k bs s).withLocal m') =
        (compose (clampLen s.len) (transferred k bs s)).map (State.withLocal m') := by
      refine compose_withLocal ?_
      rw [← htransferred, readLocal_transferred k hlen, readLocal_transferred k hlen]
    refine ⟨m', ?_⟩
    rw [runTransfer_of_read k render hl hr, runTransfer_of_read k render (s := s.withLocal m) hl hr, htransferred]
    cases render with
    | false => rfl
    | true =>
      simp only [if_true, withLocal_len, hcompose]
      cases compose (clampLen s.len) (transferred k bs s) <;> rfl

end

/-! ### Events -/

theorem ticked_withLocal (m : Memory) (s : State) : (s.withLocal m).ticked = s.ticked.withLocal m := by
  by_cases h : s.timerTo = true
  · simp only [State.ticked, State.withLocal, h, if_true]
  · simp only [State.ticked, State.withLocal, h, if_false, Bool.false_eq_true]

theorem enterDispatch_withLocal (m : Memory) (s : State) : enterDispatch (s.withLocal m) = (enterDispatch s).withLocal m := by
  rw [enterDispatch_ticked, enterDispatch_ticked, ticked_withLocal]
  rfl

theorem localBlind_serviceEdge (m : Memory) (s : State) : LocalBlind serviceEdge m s := by
  by_cases hquiet : s.len = 0 ∨ confirmBit s.snap = s.prevConfirm
  · refine ⟨m, ?_⟩
    rw [serviceEdge_quiet rfl hquiet, serviceEdge_quiet (s := s.withLocal m) rfl hquiet]
    rfl
  · obtain ⟨hl, hedge⟩ := not_or.1 hquiet
    obtain ⟨m', h⟩ := localBlind_thenDo (localBlind_runTransfer (switchSel s.snap) true m
      { s with prevConfirm := confirmBit s.snap }) (g := awaitAck) fun m' u => ⟨m', rfl⟩
    refine ⟨m', ?_⟩
    rw [serviceEdge_edge rfl hl hedge, serviceEdge_edge (s := s.withLocal m) rfl hl hedge]
    exact h

section
variable {m : Memory} {s t : State}

theorem commit_withLocal {f : State → Except FaultRecord State} (hf : LocalBlind f m s) (h : commit s (f s) = .next t) :
    ∃ m', commit (s.withLocal m) (f (s.withLocal m)) = .next (t.withLocal m') := by
  obtain ⟨m', hf⟩ := hf
  rw [hf]
  cases hs : f s with
  | error e => rw [hs] at h; cases h; exact ⟨m, rfl⟩
  | ok u => rw [hs] at h; cases h; exact ⟨m', rfl⟩

theorem blockEvent_withLocal {b : Bool} {e : String} {r r' : Result} (h : blockEvent b e r = .next t)
    (hr : r = .next t → ∃ m', r' = .next (t.withLocal m')) : ∃ m', blockEvent b e r' = .next (t.withLocal m') := by
  obtain ⟨rfl, hnext⟩ := blockEvent_next h
  exact hr hnext

theorem execBoot_withLocal (m : Memory) (h : execBoot s = .next t) :
    ∃ m', execBoot (s.withLocal m) = .next (t.withLocal m') := by
  have hp := (execBoot_next h).1
  rw [execBoot_eq hp] at h
  rw [execBoot_eq (s := s.withLocal m) hp]
  exact commit_withLocal (f := fun s => thenDo (runTransfer (switchSel s.sw) false (takeSnapshot s)) finishBoot)
    (localBlind_thenDo (localBlind_runTransfer (switchSel s.sw) false m (takeSnapshot s)) fun m' u => ⟨m', rfl⟩) h

theorem execDispatchSwitch_withLocal (m : Memory) (h : execDispatchSwitch s = .next t) :
    ∃ m', execDispatchSwitch (s.withLocal m) = .next (t.withLocal m') := by
  refine blockEvent_withLocal h fun hc => commit_withLocal (f := fun s =>
    if exitBit (enterDispatch s).snap then .ok (enterDispatch s) else serviceEdge (enterDispatch s)) ?_ hc
  by_cases hexit : exitBit s.sw = true
  · exact ⟨m, by simp [enterDispatch_withLocal, hexit, Except.map]⟩
  · obtain ⟨m', hservice⟩ := localBlind_serviceEdge m (enterDispatch s)
    exact ⟨m', by simp [enterDispatch_withLocal, hexit, hservice]⟩

theorem execPReadOut_withLocal (m : Memory) {off : BitVec 16} (h : execPReadOut off s = .next t) :
    execPReadOut off (s.withLocal m) = .next (t.withLocal m) := by
  obtain ⟨b, hl, hb, e⟩ | ⟨hany, e⟩ := execPReadOut_cases off s <;> cases e.symm.trans h <;>
    obtain ⟨b', hl', hb', e'⟩ | ⟨hany', e'⟩ := execPReadOut_cases off (s.withLocal m)
  · obtain rfl := Option.some.inj (hb'.symm.trans hb)
    exact e'
  · simp [hl, hb] at hany'
  · simp [show s.len = 0 from hl', show s.outBuf.read off.toNat = some b' from hb'] at hany
  · exact e'

/-- Every event acts alike on canonical LocalImageBuffers that agree as far as it reaches. -/
theorem exec_withLocal {i : Instr} (hm : s.localBuf.wf) (hm' : m.wf)
    (hagree : ∀ x, x < localReach i → m.read x = s.localBuf.read x) (h : exec i s = .next t) :
    ∃ m', exec i (s.withLocal m) = .next (t.withLocal m') := by
  cases i with
  | boot => exact execBoot_withLocal m h
  | dispatchTimer =>
    refine blockEvent_withLocal h fun hc => ⟨m, ?_⟩
    cases hc
    rw [enterDispatch_withLocal]
    rfl
  | dispatchSwitch => exact execDispatchSwitch_withLocal m h
  | ack => exact blockEvent_withLocal h fun hc => ⟨m, by cases hc; rfl⟩
  | runTransfer render =>
    exact blockEvent_withLocal h fun hc => commit_withLocal (localBlind_runTransfer (switchSel s.sw) render m s) hc
  | apply len k =>
    exact blockEvent_withLocal h fun hc =>
      commit_withLocal (localBlind_transform k (readLocal_withLocal hm hm' hagree)) hc
  | render len =>
    exact blockEvent_withLocal h fun hc =>
      commit_withLocal ⟨m, compose_withLocal (readLocal_withLocal hm hm' hagree)⟩ hc
  | pWriteIn off b =>
    obtain ⟨hl, rfl⟩ := execPWriteIn_next h
    exact ⟨m, execPWriteIn_of_len_eq_zero (s := s.withLocal m) off b hl⟩
  | pWriteLen v =>
    obtain ⟨hl, rfl⟩ := execPWriteLen_next h
    exact ⟨m, execPWriteLen_of_len_eq_zero (s := s.withLocal m) v hl⟩
  | pReadOut off => exact ⟨m, execPReadOut_withLocal m h⟩
  | reset => cases h; exact ⟨[], rfl⟩
  | swSet | timerExpire | pReadLen | tIdent | tInvert | tBrighten | tDarken | tUnsupported =>
    cases h
    exact ⟨m, rfl⟩

end

/-- Settles O52: `exec_withLocal`, the two next states differing in the LocalImageBuffer given. -/
theorem staleLocalBytesAreNeverSeen : Obligations.StaleLocalBytesAreNeverSeen := by
  intro i m s t hm hm' hagree h
  obtain ⟨m', h'⟩ := exec_withLocal hm hm' hagree h
  exact ⟨t.withLocal m', h', rfl⟩

end Sys2Proof.Machine
end
